-- ==== Sys2Proof/Word.lean ====
section
/-! DEFINITION. The word types of the hardware (spec/00_scope.md R5, R9): what the spec treats as bits. -/

namespace Sys2Proof

/-- One byte: a general register, a timer, a byte of memory, the immediate `NN` (R10, R18, R30, R46). -/
abbrev Byte := BitVec 8

/-- Sixteen bits: `pc`, `I`, a stack entry, an instruction word (R13, R15, R16, R45). -/
abbrev Word := BitVec 16

/-- Four bits: the field `N`, a row count 0 to 15, and the sub-opcode nibble (R46, R48). -/
abbrev Nibble := BitVec 4

/-- Twelve bits: the immediate address `NNN` (R46, R48). -/
abbrev Addr12 := BitVec 12

/-- The number of a general register or of a key, 0 to 15: the fields `X` and `Y` (R10, R46). -/
abbrev RegIdx := BitVec 4

end Sys2Proof
end

