-- ==== Sys2Proof/Config.lean ====
section
/-! DEFINITION. The implementation parameters (spec/00_scope.md R5, R6, R7) and the one free value (R93). The widths
are those of the types in Word.lean and Machine/State.lean (`test_parameters` holds them together). The parameters of R6
whose other values the spec gives no meaning are built in at the value taken: KEY_INDEX_OOR = mask (`keyIndex`),
DATA_OOR = fault (`withDataRange`), FETCH_OOR = fault (`stepWith`), VF_ORDER = flag_last (`writeResultAndFlag`). -/

namespace Sys2Proof.Config

/-- `MEM_SIZE`: 4096 bytes, addresses 0x000 to 0xFFF (R5). -/
@[simp] abbrev memSize : Nat := 4096

/-- `PROG_BASE`: where the program is loaded (R5). -/
@[simp] abbrev progBase : Nat := 0x200

/-- `PROG_MAX`: the most bytes `LOAD` takes (R5). -/
@[simp] abbrev progMax : Nat := 3584

/-- `FONT_BASE`: the address of glyph 0 (R5). -/
@[simp] abbrev fontBase : Nat := 0x050

/-- `FONT_SIZE`: 16 glyphs of 5 bytes (R5). -/
@[simp] abbrev fontSize : Nat := 80

/-- The bytes of one glyph (R5, R22). -/
@[simp] abbrev glyphBytes : Nat := 5

/-- `NREGS`: general registers (R5, R10). -/
@[simp] abbrev nregs : Nat := 16

/-- `I_WIDTH`, `PC_WIDTH`, `TIMER_WIDTH`, `IW_WIDTH` in bits (R5). -/
@[simp] abbrev iWidth : Nat := 16
@[simp] abbrev pcWidth : Nat := 16
@[simp] abbrev timerWidth : Nat := 8
@[simp] abbrev iwWidth : Nat := 16

/-- `NKEYS`: keys (R5, R21). -/
@[simp] abbrev nkeys : Nat := 16

/-- `STACK_ENTRY_WIDTH` and `SP_WIDTH` in bits (R6, D23). -/
@[simp] abbrev stackEntryWidth : Nat := 16
@[simp] abbrev spWidth : Nat := 5

/-- `FLAG_REG`: the number of the flag register (R5, R11). -/
@[simp] abbrev flagReg : RegIdx := 0xF#4

/-- `STACK_DEPTH`: how many return addresses the call stack holds (R5, R16). -/
@[simp] abbrev stackDepth : Nat := 16

/-- `FB_W`: the columns of the framebuffer (R5). -/
@[simp] abbrev fbWidth : Nat := 64

/-- `FB_H`: the rows of the framebuffer (R5). -/
@[simp] abbrev fbHeight : Nat := 32

/-- The columns of a sprite row, one byte (R111, D13). -/
@[simp] abbrev spriteWidth : Nat := 8

/-- `PC_RESET`: the entry point (R5, R162). -/
@[simp] abbrev pcReset : Word := 0x200#16

/-- `TICK_HZ`: the host's duty; no rule depends on it (R5, R141). -/
@[simp] abbrev tickHz : Nat := 60

/-- `MEM_RESET_FILL`: what a byte outside the font table holds after `RESET` (R6, R33, D15). UNVERIFIED, log 5. -/
@[simp] abbrev memResetFill : Byte := 0x00#8

/-- `FONT_TABLE`: the 80 bytes of R22, glyph 0 first, top row first (D12, G2). UNVERIFIED, log 5. -/
def fontTable : List Byte :=
  [0xF0, 0x90, 0x90, 0x90, 0xF0] ++  -- 0
  [0x20, 0x60, 0x20, 0x20, 0x70] ++  -- 1
  [0xF0, 0x10, 0xF0, 0x80, 0xF0] ++  -- 2
  [0xF0, 0x10, 0xF0, 0x10, 0xF0] ++  -- 3
  [0x90, 0x90, 0xF0, 0x10, 0x10] ++  -- 4
  [0xF0, 0x80, 0xF0, 0x10, 0xF0] ++  -- 5
  [0xF0, 0x80, 0xF0, 0x90, 0xF0] ++  -- 6
  [0xF0, 0x10, 0x20, 0x40, 0x40] ++  -- 7
  [0xF0, 0x90, 0xF0, 0x90, 0xF0] ++  -- 8
  [0xF0, 0x90, 0xF0, 0x10, 0xF0] ++  -- 9
  [0xF0, 0x90, 0xF0, 0x90, 0x90] ++  -- A
  [0xE0, 0x90, 0xE0, 0x90, 0xE0] ++  -- B
  [0xF0, 0x80, 0x80, 0x80, 0xF0] ++  -- C
  [0xE0, 0x90, 0x90, 0x90, 0xE0] ++  -- D
  [0xF0, 0x80, 0xF0, 0x80, 0xF0] ++  -- E
  [0xF0, 0x80, 0xF0, 0x80, 0x80]     -- F

/-- The values of the switch `SHIFT_SOURCE` (R7). -/
inductive ShiftSource where
  | X  -- the operand of SHR and SHL is V[X]
  | Y  -- the operand is V[Y]: a note in R91 and R92, not this hardware
  deriving DecidableEq, Repr

/-- `SHIFT_SOURCE`: this hardware takes `X` (R7); log 14. -/
@[simp] abbrev shiftSource : ShiftSource := .X

/-- The random source (R93, D14): the byte of draw number `n`, an input of the step under no law.
Opaque: nothing can be proved of its values, so what is proved holds for every value of every draw. Log 2. -/
opaque rnd (n : Nat) : Byte

end Sys2Proof.Config
end

