-- ==== Sys2Proof/Machine/State.lean ====
section
/-! DEFINITION. The state of the machine as plain data (spec/10_state.md), the reasons a step can stop, and the state
right after `RESET` (R26). -/

namespace Sys2Proof.Machine

/-- The values of the fault latch (R24, R131). -/
inductive FaultCode where
  /-- Code 0: no fault. -/
  | none
  /-- Code 1: CALL with `sp` = 16 (R133). -/
  | stackOverflow
  /-- Code 2: RET with `sp` = 0 (R134). -/
  | stackUnderflow
  /-- Code 3: a STEP with `pc` above 0xFFE (R61). -/
  | fetchRange
  /-- Code 4: a data access above 0xFFF (R37). -/
  | dataRange
  deriving DecidableEq, Repr

/-- The result of one STEP (R66). -/
inductive StepResult where
  | advanced
  | stalled
  | faulted
  deriving DecidableEq, Repr

/-- One record of the diagnostic channel: the offending word and the address it was fetched from (R136). -/
structure Diag where
  word : Word
  address : Word
  deriving DecidableEq, Repr

/-- The outputs of one STEP: its result and, for an unrecognized word, its diagnostic record (R66, R136, D1). -/
structure StepOut where
  result : StepResult
  diag : Option Diag
  deriving DecidableEq, Repr

/-- Main memory (R19, R30): the bytes that differ from what an unlisted address reads as, by rising address. -/
abbrev Memory := List Host.Cell

/-- The framebuffer: 32 rows of 64 one-bit pixels, row 0 at the top. Cell `fb[x + 64 * y]` of R20 is bit `x` of row
`y` (log 4). -/
abbrev Framebuffer := Vector (BitVec 64) 32

/-- The machine state. The fields are those of 10_state.md under its own names; `out` and `draws` are the model's own. -/
structure State where
  /-- General registers `V[0]` to `V[15]` (R10); `V[0xF]` is the flag register (R11). -/
  V : Vector Byte 16
  /-- Program counter (R13, R14). -/
  pc : Word
  /-- Index register (R15). -/
  I : Word
  /-- Call stack entries `stack[0]` to `stack[15]` (R16). -/
  stack : Vector Word 16
  /-- Stack pointer, 0 to 16: the number of entries in use (R16, R17; log 3). -/
  sp : Fin 17
  /-- Delay timer (R18). -/
  DT : Byte
  /-- Sound timer (R18). -/
  ST : Byte
  /-- Main memory (R19). -/
  mem : Memory
  /-- Framebuffer (R20). -/
  fb : Framebuffer
  /-- Key state: true means pressed (R21). -/
  key : Vector Bool 16
  /-- Redraw flag (R23). -/
  redraw : Bool
  /-- Fault latch (R24). -/
  fault : FaultCode
  /-- The outputs of the last STEP, none before the first (R25, R66, R136). DESIGN CHOICE, log 1. -/
  out : Option StepOut
  /-- How many random bytes RND has drawn (R93). DESIGN CHOICE, log 2. -/
  draws : Nat
  deriving DecidableEq, Repr

/-- Why the machine stops with a fault outside the spec's own fault latch. It has no constructor, and nothing raises
it: every fault the spec describes is a NEXT state with the latch set (R132; log 8). Safe. -/
inductive Fault
  deriving DecidableEq, Repr

/-- Why an instruction is refused. -/
inductive Refusal where
  /-- The instruction of this row has no meaning yet. Raised by `exec` alone; no arm of it is left. Safe. -/
  | notModelled (mnemonic : String)
  deriving DecidableEq, Repr

/-- The state after `RESET` (R26, R160): memory lists nothing, so it reads as the font table and the fill.
`out` and `draws` are the model's own (DESIGN CHOICE, log 1 and log 2). -/
def State.reset : State where
  V := Vector.replicate 16 0x00#8
  pc := Config.pcReset
  I := 0x0000#16
  stack := Vector.replicate 16 0x0000#16
  sp := 0
  DT := 0x00#8
  ST := 0x00#8
  mem := []
  fb := Vector.replicate 32 0#64
  key := Vector.replicate 16 false
  redraw := false
  fault := .none
  out := none
  draws := 0

end Sys2Proof.Machine
end

