-- ==== Sys2Proof/Machine/Ops.lean ====
section
/-! DEFINITION. The named operations over memory, registers, stack, framebuffer and keys, how an instruction
completes, and taking a fatal fault (spec/60_exceptions.md R132). -/

namespace Sys2Proof.Machine

/-- What one instruction or one step answers. -/
abbrev Answer := Host.Outcome State Fault Refusal

/-! ### Main memory (R30 to R39) -/

/-- What an address holds after `RESET`: the font table at 0x050 to 0x09F, the fill elsewhere (R22, R33; log 5). -/
def resetByte (a : Nat) : Byte :=
  if Config.fontBase ≤ a ∧ a < Config.fontBase + Config.fontSize then
    Config.fontTable.getD (a - Config.fontBase) Config.memResetFill
  else Config.memResetFill

/-- `MemRead(a, 1)` (R9, R39): the byte listed for `a`, or the reset contents. Range checks are `accessOk` (R37). -/
def Memory.read : Memory → Nat → Byte
  | [], a => resetByte a
  | (k, b) :: m, a => if a = k then b else Memory.read m a

/-- Memory without an entry for `a`. -/
def Memory.erase (m : Memory) (a : Nat) : Memory := m.filter (fun c => c.1 != a)

/-- Put an entry in its place by rising address. -/
def Memory.insert : Memory → Nat → Byte → Memory
  | [], a, b => [(a, b)]
  | (k, c) :: m, a, b => if a < k then (a, b) :: (k, c) :: m else (k, c) :: Memory.insert m a b

/-- `MemWrite(a, 1, b)` (R9, R32): afterwards `a` reads as `b`. Writing the reset contents leaves no entry, so equal
memories are equal lists. -/
def Memory.write (m : Memory) (a : Nat) (b : Byte) : Memory :=
  if b = resetByte a then m.erase a else (m.erase a).insert a b

/-- The canonical form from address `lo` up: addresses strictly rise and lie in 0x000 to 0xFFF, and no entry equals
what an unlisted address reads as. -/
def Memory.wfFrom : Nat → Memory → Bool
  | _, [] => true
  | lo, (a, b) :: m => decide (lo ≤ a) && decide (a < Config.memSize) && b != resetByte a && Memory.wfFrom (a + 1) m

/-- The canonical form of memory. -/
def Memory.wf (m : Memory) : Bool := Memory.wfFrom 0 m

/-- The `n` bytes at `a`, `a + 1`, … in ascending order (R38, R105, R111). -/
def readBytes (m : Memory) (a n : Nat) : List Byte := (List.range n).map (fun k => m.read (a + k))

/-- Store bytes at `a`, `a + 1`, … in ascending order (R38, R103, R104, R150). -/
def writeBytes (m : Memory) : Nat → List Byte → Memory
  | _, [] => m
  | a, b :: bs => writeBytes (m.write a b) (a + 1) bs

/-- The range check of R37 over the `n` addresses from `a`: none above 0xFFF; on unbounded integers, nothing wraps
(R106; D6, log 11). -/
def accessOk (a : Word) (n : Nat) : Bool := n == 0 || decide (a.toNat + n ≤ Config.memSize)

/-! ### General registers (R10, R11) -/

/-- `V[x]`. -/
def State.reg (s : State) (x : RegIdx) : Byte := s.V[x.toNat]'x.isLt

/-- `V[x] <- b`. -/
def State.setReg (s : State) (x : RegIdx) (b : Byte) : State := { s with V := s.V.set x.toNat b x.isLt }

/-- `V[0xF] <- 1 if c else 0`, the last register write of an instruction (R11, R12; D8, log 10). -/
def State.setFlag (s : State) (c : Bool) : State := s.setReg Config.flagReg (if c then 0x01#8 else 0x00#8)

/-- `V[i] <- f i` for `i` in 0 to `x`; the registers above `x` keep their values (R105). -/
def State.setRegsUpTo (s : State) (x : RegIdx) (f : Nat → Byte) : State :=
  { s with V := Vector.ofFn fun i : Fin 16 => if i.val ≤ x.toNat then f i.val else s.V[i] }

/-- `V[0]` to `V[x]` in ascending order (R104). -/
def State.regsUpTo (s : State) (x : RegIdx) : List Byte :=
  (List.range (x.toNat + 1)).map (fun k => s.reg (BitVec.ofNat 4 k))

/-! ### Other state an instruction writes -/

/-- `I <- a` (R15). -/
def State.setIndex (s : State) (a : Word) : State := { s with I := a }

/-- Main memory becomes `m` (R38). -/
def State.setMemory (s : State) (m : Memory) : State := { s with mem := m }

/-- `DT <- b` (R124). -/
def State.setDelay (s : State) (b : Byte) : State := { s with DT := b }

/-- `ST <- b` (R125). -/
def State.setSound (s : State) (b : Byte) : State := { s with ST := b }

/-- The framebuffer becomes `fb` and `redraw <- 1` (R23, R110, R111). -/
def State.setScreen (s : State) (fb : Framebuffer) : State := { s with fb := fb, redraw := true }

/-- One random byte has been drawn: the next draw is a new one (R93; log 2). -/
def State.countDraw (s : State) : State := { s with draws := s.draws + 1 }

/-! ### Framebuffer (R20, R112) -/

/-- The index of the cell of column `x`, row `y` (R20). -/
def cellIndex (x y : Nat) : Nat := x + Config.fbWidth * y

/-- `fb[j]` (R20). -/
def fbCell (fb : Framebuffer) (j : Nat) : Bool := (fb[j / 64]?.getD 0#64).getLsbD (j % 64)

/-- `fb[j] <- fb[j] ^ 1` (R111). -/
def fbFlip (fb : Framebuffer) (j : Nat) : Framebuffer :=
  fb.setIfInBounds (j / 64) (fb[j / 64]?.getD 0#64 ^^^ BitVec.twoPow 64 (j % 64))

/-- All 2048 cells 0 (R110). -/
def fbClear : Framebuffer := Vector.replicate 32 0#64

/-! ### Keys (R21) -/

/-- `key[k]`: pressed or not. -/
def State.keyDown (s : State) (k : RegIdx) : Bool := s.key[k.toNat]'k.isLt

/-- The least `j` with `key[j]` pressed, if any (R123). -/
def State.lowestKey (s : State) : Option (Fin 16) := (List.finRange 16).find? (fun j => s.key[j])

/-! ### Call stack (R16, R17) -/

/-- Push `a`: `stack[sp] <- a`, then `sp` goes up by one; nothing when the stack is full (R72). -/
def State.push (s : State) (a : Word) : Option State :=
  if h : s.sp.val < 16 then some { s with stack := s.stack.set s.sp.val a h, sp := ⟨s.sp.val + 1, by omega⟩ } else none

/-- Pop: `sp` goes down by one, and the answer holds `stack[sp]` read after that; nothing when the stack is empty. The
entry keeps its contents (R16, R70). -/
def State.pop (s : State) : Option (Word × State) :=
  if h : s.sp.val = 0 then none
  else some (s.stack[s.sp.val - 1]'(by omega), { s with sp := ⟨s.sp.val - 1, by omega⟩ })

/-! ### How an instruction ends (R63 to R66) -/

/-- `pc <- target; result <- ADVANCED`, with no diagnostic record (R63, R66, R136). -/
def State.finishAt (s : State) (target : Word) : State := { s with pc := target, out := some ⟨.advanced, none⟩ }

/-- `pc <- pc + 2; result <- ADVANCED` (R65). `pc` is still the address of the instruction (R13). -/
def State.advance (s : State) : State := s.finishAt (s.pc + 2#16)

/-- `pc <- pc + 4` if the condition holds, else `pc + 2`; whatever the next word is (R65). -/
def State.skipIf (s : State) (c : Bool) : State := s.finishAt (if c then s.pc + 4#16 else s.pc + 2#16)

/-- `result <- STALLED`; nothing else changes (R66, R123). -/
def State.stall (s : State) : State := { s with out := some ⟨.stalled, none⟩ }

/-- An unrecognized word at `pc`: `diag(word, pc)`, `pc <- pc + 2`, `result <- ADVANCED` (R64). -/
def State.unrecognized (s : State) (word : Word) : State :=
  { s with pc := s.pc + 2#16, out := some ⟨.advanced, some ⟨word, s.pc⟩⟩ }

/-! ### Fatal faults (R130 to R138) -/

/-- `raise Fatal(code)` (R132), on the state the step began with: the latch is set, the result is FAULTED, and nothing
else changes. There is no handler and no return from a fault; `RESET` alone clears the latch (R138). D16, log 8. -/
def State.raise (s : State) (code : FaultCode) : State := { s with fault := code, out := some ⟨.faulted, none⟩ }

/-- A STEP with the latch already set: `result <- FAULTED`, no state changes (R60). -/
def State.standStill (s : State) : State := { s with out := some ⟨.faulted, none⟩ }

/-- Run `k` if the `n` addresses from `I` are in memory, else take `DATA_RANGE` (R37). -/
def withDataRange (s : State) (n : Nat) (k : State) : State := if accessOk s.I n then k else s.raise .dataRange

end Sys2Proof.Machine
end

