-- ==== Sys2Proof/Machine/Operands.lean ====
section
/-! DEFINITION. The operand forms (spec/30_encoding.md R48): how fields and registers become values and addresses. -/

namespace Sys2Proof.Machine

/-- A 12-bit address as a value of `pc` or `I`: bits 15 to 12 are 0 (R48, R71, R100). -/
def addrWord (nnn : Addr12) : Word := nnn.setWidth 16

/-- `NNN + V[0]`, not masked to 12 bits (R77). -/
def offsetTarget (s : State) (nnn : Addr12) : Word := BitVec.ofNat 16 (nnn.toNat + (s.reg 0x0#4).toNat)

/-- The key a register selects: its low four bits (R120, R121; D10, log 12). -/
def keyIndex (b : Byte) : RegIdx := b.extractLsb' 0 4

/-- `I + a` before it is narrowed (R101). -/
def indexSum (s : State) (x : RegIdx) : Nat := s.I.toNat + (s.reg x).toNat

/-- `I + n`, modulo 65536 (R104, R105). -/
def indexPlus (s : State) (n : Nat) : Word := BitVec.ofNat 16 (s.I.toNat + n)

/-- `FONT_BASE + 5 * V[X]`, `V[X]` not masked (R102; C3, D11, log 12). -/
def glyphAddress (b : Byte) : Word := BitVec.ofNat 16 (Config.fontBase + Config.glyphBytes * b.toNat)

/-- The decimal digits of a byte: hundreds, tens, ones (R103). -/
def bcdDigits (b : Byte) : List Byte :=
  [BitVec.ofNat 8 (b.toNat / 100), BitVec.ofNat 8 (b.toNat / 10 % 10), BitVec.ofNat 8 (b.toNat % 10)]

/-- The operand of SHR and SHL: `V[X]` on this hardware, `Y` is ignored (R7, R51, R91, R92; log 14). -/
def shiftOperand (s : State) (x y : RegIdx) : Byte :=
  match Config.shiftSource with
  | .X => s.reg x
  | .Y => s.reg y

/-- How many bytes register dump and register load move: X + 1, from the field itself (R104, R105). -/
def transferCount (x : RegIdx) : Nat := x.toNat + 1

end Sys2Proof.Machine
end

