-- ==== Sys2Proof/Machine/Flags.lean ====
section
/-! DEFINITION. Every result that comes with a flag, and the flag's rule (spec/10_state.md R11). The flag of DRW is
computed where the sprite is drawn (Machine/Display.lean). -/

namespace Sys2Proof.Machine

/-- The truncated sum (R81, R86). -/
def sumByte (a b : Byte) : Byte := BitVec.ofNat 8 (a.toNat + b.toNat)

/-- ADD_reg's flag: the untruncated sum exceeds 255 (R86). -/
def carryOut (a b : Byte) : Bool := decide (a.toNat + b.toNat > 255)

/-- `(a - b) mod 256` (R87, R88). -/
def diffByte (a b : Byte) : Byte := BitVec.ofInt 8 ((a.toNat : Int) - (b.toNat : Int))

/-- The flag of SUB and SUBN: minuend at least subtrahend, no borrow (R87, R88). -/
def noBorrow (a b : Byte) : Bool := decide (a.toNat ≥ b.toNat)

/-- `a >> 1`, bit 7 of the result 0 (R91). -/
def shiftedRight (a : Byte) : Byte := BitVec.ofNat 8 (a.toNat / 2)

/-- SHR's flag: bit 0 before the shift (R91). -/
def lowBit (a : Byte) : Bool := a.getLsbD 0

/-- `trunc8(a << 1)` (R92). -/
def shiftedLeft (a : Byte) : Byte := BitVec.ofNat 8 (a.toNat * 2)

/-- SHL's flag: bit 7 before the shift (R92). -/
def highBit (a : Byte) : Bool := a.getLsbD 7

/-- ADD_I's flag: the unbounded sum exceeds 0xFFF (R101). -/
def indexOverflow (sum : Nat) : Bool := decide (sum > 0xFFF)

end Sys2Proof.Machine
end

