-- ==== Sys2Proof/Machine/Alu.lean ====
section
/-! DEFINITION. Register and ALU instructions (spec/42_alu.md). Operands are read first, the result is written, then
the flag (R12, R90; D8, log 10); every instruction ends with `pc + 2`, ADVANCED. -/

namespace Sys2Proof.Machine

/-- Write a result to `V[X]`, then end with `pc + 2` (R80 to R85). -/
def State.writeResult (s : State) (x : RegIdx) (v : Byte) : State := (s.setReg x v).advance

/-- Write a result to `V[X]`, then the flag to `V[0xF]`, then end with `pc + 2` (R86 to R92, R12). -/
def State.writeResultAndFlag (s : State) (x : RegIdx) (v : Byte) (c : Bool) : State :=
  ((s.setReg x v).setFlag c).advance

/-- `6XNN` LD_imm (R80). -/
def execLdImm (x : RegIdx) (nn : Byte) (s : State) : Answer := .next (s.writeResult x nn)

/-- `7XNN` ADD_imm (R81): no flag. -/
def execAddImm (x : RegIdx) (nn : Byte) (s : State) : Answer := .next (s.writeResult x (sumByte (s.reg x) nn))

/-- `8XY0` LD_reg (R82). -/
def execLdReg (x y : RegIdx) (s : State) : Answer := .next (s.writeResult x (s.reg y))

/-- `8XY1` OR (R83): no flag. -/
def execOr (x y : RegIdx) (s : State) : Answer := .next (s.writeResult x (s.reg x ||| s.reg y))

/-- `8XY2` AND (R84): no flag. -/
def execAnd (x y : RegIdx) (s : State) : Answer := .next (s.writeResult x (s.reg x &&& s.reg y))

/-- `8XY3` XOR (R85): no flag. -/
def execXor (x y : RegIdx) (s : State) : Answer := .next (s.writeResult x (s.reg x ^^^ s.reg y))

/-- `8XY4` ADD_reg (R86). -/
def execAddReg (x y : RegIdx) (s : State) : Answer :=
  let a := s.reg x
  let b := s.reg y
  .next (s.writeResultAndFlag x (sumByte a b) (carryOut a b))

/-- `8XY5` SUB, x minus y (R87). -/
def execSub (x y : RegIdx) (s : State) : Answer :=
  let a := s.reg x
  let b := s.reg y
  .next (s.writeResultAndFlag x (diffByte a b) (noBorrow a b))

/-- `8XY6` SHR (R91). -/
def execShr (x y : RegIdx) (s : State) : Answer :=
  let a := shiftOperand s x y
  .next (s.writeResultAndFlag x (shiftedRight a) (lowBit a))

/-- `8XY7` SUBN, y minus x (R88). -/
def execSubn (x y : RegIdx) (s : State) : Answer :=
  let a := s.reg x
  let b := s.reg y
  .next (s.writeResultAndFlag x (diffByte b a) (noBorrow b a))

/-- `8XYE` SHL (R92). -/
def execShl (x y : RegIdx) (s : State) : Answer :=
  let a := shiftOperand s x y
  .next (s.writeResultAndFlag x (shiftedLeft a) (highBit a))

/-- RND with the byte `r` drawn (R93): `V[X] <- r & NN`. -/
def State.writeRandom (s : State) (x : RegIdx) (nn r : Byte) : State := s.writeResult x (r &&& nn)

/-- `CXNN` RND (R93): a fresh draw of the free value `Config.rnd` for each execution (log 2). -/
def execRnd (x : RegIdx) (nn : Byte) (s : State) : Answer :=
  .next (s.countDraw.writeRandom x nn (Config.rnd s.draws))

end Sys2Proof.Machine
end

