-- ==== Sys2Proof/Machine/Control.lean ====
section
/-! DEFINITION. Control transfer instructions (spec/41_control_flow.md). `pc` is the address of the instruction while
it executes (R13). -/

namespace Sys2Proof.Machine

/-- `00EE` RET (R70): `pc` is the popped entry plus 2; an empty stack is STACK_UNDERFLOW (R134). -/
def execRet (s : State) : Answer :=
  match s.pop with
  | none => .next (s.raise .stackUnderflow)
  | some (a, t) => .next (t.finishAt (a + 2#16))

/-- `1NNN` JP (R71). -/
def execJp (nnn : Addr12) (s : State) : Answer := .next (s.finishAt (addrWord nnn))

/-- `2NNN` CALL (R72): pushes the address of the CALL itself (C2, D4); a full stack is STACK_OVERFLOW (R133). -/
def execCall (nnn : Addr12) (s : State) : Answer :=
  match s.push s.pc with
  | none => .next (s.raise .stackOverflow)
  | some t => .next (t.finishAt (addrWord nnn))

/-- `3XNN` SE_imm (R73). -/
def execSeImm (x : RegIdx) (nn : Byte) (s : State) : Answer := .next (s.skipIf (s.reg x == nn))

/-- `4XNN` SNE_imm (R74). -/
def execSneImm (x : RegIdx) (nn : Byte) (s : State) : Answer := .next (s.skipIf (s.reg x != nn))

/-- `5XY0` SE_reg (R75). -/
def execSeReg (x y : RegIdx) (s : State) : Answer := .next (s.skipIf (s.reg x == s.reg y))

/-- `9XY0` SNE_reg (R76). -/
def execSneReg (x y : RegIdx) (s : State) : Answer := .next (s.skipIf (s.reg x != s.reg y))

/-- `BNNN` JP_V0 (R77): the register is always register 0. -/
def execJpV0 (nnn : Addr12) (s : State) : Answer := .next (s.finishAt (offsetTarget s nnn))

end Sys2Proof.Machine
end

