-- ==== Sys2Proof/Machine/Display.lean ====
section
/-! DEFINITION. Display instructions (spec/44_display.md): CLS and DRW. -/

namespace Sys2Proof.Machine

/-- A drawing under way: the framebuffer so far and whether a pixel that was on has been turned off (R111). -/
abbrev Drawing := Framebuffer × Bool

/-- One set sprite bit at screen column `px`, row `py`: note a hit, invert the cell (R111). -/
def drawPixel (px py : Nat) (d : Drawing) : Drawing :=
  (fbFlip d.1 (cellIndex px py), d.2 || fbCell d.1 (cellIndex px py))

/-- One sprite row of eight pixels, bit 7 leftmost; each column wraps on its own (R111, R112; D13, log 12). -/
def drawRow (x0 py : Nat) (b : Byte) (d : Drawing) : Drawing :=
  (List.range Config.spriteWidth).foldl
    (fun d col => if b.getLsbD (7 - col) then drawPixel ((x0 + col) % Config.fbWidth) py d else d) d

/-- The sprite rows from screen row `y` down; each row wraps on its own (R111, R112). -/
def drawRows (x0 : Nat) : Nat → List Byte → Drawing → Drawing
  | _, [], d => d
  | y, b :: bs, d => drawRows x0 (y + 1) bs (drawRow x0 (y % Config.fbHeight) b d)

/-- `00E0` CLS (R110). -/
def execCls (s : State) : Answer := .next (s.setScreen fbClear).advance

/-- `DXYN` DRW (R111): the position is read before the flag is written; with `N` = 0 nothing is read. -/
def execDrw (x y : RegIdx) (n : Nibble) (s : State) : Answer :=
  let sprite := readBytes s.mem s.I.toNat n.toNat
  let d := drawRows (s.reg x).toNat (s.reg y).toNat sprite (s.fb, false)
  .next (withDataRange s n.toNat ((s.setScreen d.1).setFlag d.2).advance)

end Sys2Proof.Machine
end

