-- ==== Sys2Proof/Machine/IndexMemory.lean ====
section
/-! DEFINITION. Index register and memory instructions (spec/43_index_memory.md). The range check comes before any
write (R37, R63). -/

namespace Sys2Proof.Machine

/-- `ANNN` LD_I (R100). -/
def execLdI (nnn : Addr12) (s : State) : Answer := .next (s.setIndex (addrWord nnn)).advance

/-- `FX1E` ADD_I (R101): `I` keeps its 16-bit sum (D7, log 11); the flag is written last. -/
def execAddI (x : RegIdx) (s : State) : Answer :=
  let sum := indexSum s x
  .next ((s.setIndex (BitVec.ofNat 16 sum)).setFlag (indexOverflow sum)).advance

/-- `FX29` LD_F (R102): computes an address, accesses no memory. -/
def execLdF (x : RegIdx) (s : State) : Answer := .next (s.setIndex (glyphAddress (s.reg x))).advance

/-- `FX33` LD_B (R103): three bytes at `I`; `I` is not changed. -/
def execLdB (x : RegIdx) (s : State) : Answer :=
  .next (withDataRange s 3 (s.setMemory (writeBytes s.mem s.I.toNat (bcdDigits (s.reg x)))).advance)

/-- `FX55` LD_mem_Vx, register dump (R104). -/
def execLdMemVx (x : RegIdx) (s : State) : Answer :=
  .next (withDataRange s (transferCount x)
    ((s.setMemory (writeBytes s.mem s.I.toNat (s.regsUpTo x))).setIndex (indexPlus s (transferCount x))).advance)

/-- `FX65` LD_Vx_mem, register load (R105). -/
def execLdVxMem (x : RegIdx) (s : State) : Answer :=
  .next (withDataRange s (transferCount x)
    ((s.setRegsUpTo x (fun k => s.mem.read (s.I.toNat + k))).setIndex (indexPlus s (transferCount x))).advance)

end Sys2Proof.Machine
end

