-- ==== Sys2Proof/Machine/KeysTimers.lean ====
section
/-! DEFINITION. Key and timer instructions (spec/45_keys_timers.md). -/

namespace Sys2Proof.Machine

/-- `EX9E` SKP (R120). -/
def execSkp (x : RegIdx) (s : State) : Answer := .next (s.skipIf (s.keyDown (keyIndex (s.reg x))))

/-- `EXA1` SKNP (R121). -/
def execSknp (x : RegIdx) (s : State) : Answer := .next (s.skipIf (!s.keyDown (keyIndex (s.reg x))))

/-- `FX07` LD_Vx_DT (R122). -/
def execLdVxDt (x : RegIdx) (s : State) : Answer := .next (s.setReg x s.DT).advance

/-- `FX0A` LD_Vx_K (R123): with no key pressed a stall; else the least pressed key. -/
def execLdVxK (x : RegIdx) (s : State) : Answer :=
  match s.lowestKey with
  | none => .next s.stall
  | some k => .next (s.setReg x (BitVec.ofNat 8 k.val)).advance

/-- `FX15` LD_DT_Vx (R124). -/
def execLdDtVx (x : RegIdx) (s : State) : Answer := .next (s.setDelay (s.reg x)).advance

/-- `FX18` LD_ST_Vx (R125). -/
def execLdStVx (x : RegIdx) (s : State) : Answer := .next (s.setSound (s.reg x)).advance

end Sys2Proof.Machine
end

