-- ==== Sys2Proof/Machine/Unrecognized.lean ====
section
/-! DEFINITION. SYS, the row of family 0 that is an unrecognized word (spec/40_step_and_dispatch.md R64, R54). -/

namespace Sys2Proof.Machine

/-- The word of SYS with address field `nnn`: `0NNN` (R49). -/
def sysWord (nnn : Addr12) : Word := 0x0#4 ++ nnn

/-- `0NNN` SYS (R64): one diagnostic record, `pc + 2`, ADVANCED; nothing else. -/
def execSys (nnn : Addr12) (s : State) : Answer := .next (s.unrecognized (sysWord nnn))

end Sys2Proof.Machine
end

