-- ==== Sys2Proof/Syntax.lean ====
section
/-! DEFINITION. The instruction set as syntax: one constructor per row of spec/opcode_table.json (30_encoding.md R49). -/

namespace Sys2Proof

/-- One decoded instruction. Operands are the fields of R46 that the row's format uses (R47): `x`, `y` register
numbers, `nn` an 8-bit immediate, `nnn` a 12-bit address, `n` a row count. -/
inductive Instr where
  /-- `00E0` CLS, clear screen (R110). -/
  | cls
  /-- `00EE` RET, return (R70). -/
  | ret
  /-- `0NNN` SYS, the rest of family 0: an unrecognized word (R54, R64). -/
  | sys (nnn : Addr12)
  /-- `1NNN` JP, jump (R71). -/
  | jp (nnn : Addr12)
  /-- `2NNN` CALL, call (R72). -/
  | call (nnn : Addr12)
  /-- `3XNN` SE_imm, skip if a register equals an immediate (R73). -/
  | seImm (x : RegIdx) (nn : Byte)
  /-- `4XNN` SNE_imm, skip if a register differs from an immediate (R74). -/
  | sneImm (x : RegIdx) (nn : Byte)
  /-- `5XY0` SE_reg, skip if two registers are equal (R75). -/
  | seReg (x y : RegIdx)
  /-- `6XNN` LD_imm, load immediate (R80). -/
  | ldImm (x : RegIdx) (nn : Byte)
  /-- `7XNN` ADD_imm, add immediate (R81). -/
  | addImm (x : RegIdx) (nn : Byte)
  /-- `8XY0` LD_reg, register move (R82). -/
  | ldReg (x y : RegIdx)
  /-- `8XY1` OR (R83). -/
  | or (x y : RegIdx)
  /-- `8XY2` AND (R84). -/
  | and (x y : RegIdx)
  /-- `8XY3` XOR (R85). -/
  | xor (x y : RegIdx)
  /-- `8XY4` ADD_reg, add registers (R86). -/
  | addReg (x y : RegIdx)
  /-- `8XY5` SUB, x minus y (R87). -/
  | sub (x y : RegIdx)
  /-- `8XY6` SHR, shift right by one (R91); `y` is ignored (R51). -/
  | shr (x y : RegIdx)
  /-- `8XY7` SUBN, y minus x (R88). -/
  | subn (x y : RegIdx)
  /-- `8XYE` SHL, shift left by one (R92); `y` is ignored (R51). -/
  | shl (x y : RegIdx)
  /-- `9XY0` SNE_reg, skip if two registers differ (R76). -/
  | sneReg (x y : RegIdx)
  /-- `ANNN` LD_I, set index (R100). -/
  | ldI (nnn : Addr12)
  /-- `BNNN` JP_V0, jump with offset (R77). -/
  | jpV0 (nnn : Addr12)
  /-- `CXNN` RND, random byte under a mask (R93). -/
  | rnd (x : RegIdx) (nn : Byte)
  /-- `DXYN` DRW, draw sprite (R111). -/
  | drw (x y : RegIdx) (n : Nibble)
  /-- `EX9E` SKP, skip if a key is pressed (R120). -/
  | skp (x : RegIdx)
  /-- `EXA1` SKNP, skip if a key is not pressed (R121). -/
  | sknp (x : RegIdx)
  /-- `FX07` LD_Vx_DT, load the delay timer (R122). -/
  | ldVxDt (x : RegIdx)
  /-- `FX0A` LD_Vx_K, wait for a key (R123). -/
  | ldVxK (x : RegIdx)
  /-- `FX15` LD_DT_Vx, set the delay timer (R124). -/
  | ldDtVx (x : RegIdx)
  /-- `FX18` LD_ST_Vx, set the sound timer (R125). -/
  | ldStVx (x : RegIdx)
  /-- `FX1E` ADD_I, add a register to the index (R101). -/
  | addI (x : RegIdx)
  /-- `FX29` LD_F, font-character address (R102). -/
  | ldF (x : RegIdx)
  /-- `FX33` LD_B, store binary-coded decimal digits (R103). -/
  | ldB (x : RegIdx)
  /-- `FX55` LD_mem_Vx, register dump (R104). -/
  | ldMemVx (x : RegIdx)
  /-- `FX65` LD_Vx_mem, register load (R105). -/
  | ldVxMem (x : RegIdx)
  deriving DecidableEq, Repr

end Sys2Proof
end

