-- ==== Sys2Proof/Decode.lean ====
section
/-! DEFINITION. Decoding an instruction word (spec/30_encoding.md R45 to R52), the encoder written from the same table,
and the opcode map R49 itself as rows of mask and match. -/

namespace Sys2Proof

/-- Why a word is not an instruction of the table. -/
inductive DecodeReject where
  /-- An unrecognized word of family 5, 8, 9, E or F (R52): it selects no row. Raised by `decode`; `step` gives it the
  effect of R64, so it stops nothing (log 9). -/
  | unrecognized (word : Word)
  deriving DecidableEq, Repr

/-- `OP = iw[15:12]` (R46). -/
def fieldOp (iw : Word) : Nibble := iw.extractLsb' 12 4

/-- `X = iw[11:8]` (R46). -/
def fieldX (iw : Word) : RegIdx := iw.extractLsb' 8 4

/-- `Y = iw[7:4]` (R46). -/
def fieldY (iw : Word) : RegIdx := iw.extractLsb' 4 4

/-- `N = iw[3:0]` (R46). -/
def fieldN (iw : Word) : Nibble := iw.extractLsb' 0 4

/-- `NN = iw[7:0]` (R46). -/
def fieldNN (iw : Word) : Byte := iw.extractLsb' 0 8

/-- `NNN = iw[11:0]` (R46). -/
def fieldNNN (iw : Word) : Addr12 := iw.extractLsb' 0 12

/-- Family 8: the low nibble selects the instruction (R50). -/
def decodeFamily8 (iw : Word) : Except DecodeReject Instr :=
  let x := fieldX iw
  let y := fieldY iw
  match fieldN iw with
  | 0x0#4 => .ok (.ldReg x y)
  | 0x1#4 => .ok (.or x y)
  | 0x2#4 => .ok (.and x y)
  | 0x3#4 => .ok (.xor x y)
  | 0x4#4 => .ok (.addReg x y)
  | 0x5#4 => .ok (.sub x y)
  | 0x6#4 => .ok (.shr x y)
  | 0x7#4 => .ok (.subn x y)
  | 0xE#4 => .ok (.shl x y)
  | _ => .error (.unrecognized iw)

/-- Family E: the low byte selects the instruction (R50). -/
def decodeFamilyE (iw : Word) : Except DecodeReject Instr :=
  let x := fieldX iw
  match fieldNN iw with
  | 0x9E#8 => .ok (.skp x)
  | 0xA1#8 => .ok (.sknp x)
  | _ => .error (.unrecognized iw)

/-- Family F: the low byte selects the instruction (R50). -/
def decodeFamilyF (iw : Word) : Except DecodeReject Instr :=
  let x := fieldX iw
  match fieldNN iw with
  | 0x07#8 => .ok (.ldVxDt x)
  | 0x0A#8 => .ok (.ldVxK x)
  | 0x15#8 => .ok (.ldDtVx x)
  | 0x18#8 => .ok (.ldStVx x)
  | 0x1E#8 => .ok (.addI x)
  | 0x29#8 => .ok (.ldF x)
  | 0x33#8 => .ok (.ldB x)
  | 0x55#8 => .ok (.ldMemVx x)
  | 0x65#8 => .ok (.ldVxMem x)
  | _ => .error (.unrecognized iw)

/-- The case of R50 on the family `OP`. -/
def decodeFamily (iw : Word) : Except DecodeReject Instr :=
  match fieldOp iw with
  | 0x0#4 => .ok (.sys (fieldNNN iw))
  | 0x1#4 => .ok (.jp (fieldNNN iw))
  | 0x2#4 => .ok (.call (fieldNNN iw))
  | 0x3#4 => .ok (.seImm (fieldX iw) (fieldNN iw))
  | 0x4#4 => .ok (.sneImm (fieldX iw) (fieldNN iw))
  | 0x5#4 => if fieldN iw = 0x0#4 then .ok (.seReg (fieldX iw) (fieldY iw)) else .error (.unrecognized iw)
  | 0x6#4 => .ok (.ldImm (fieldX iw) (fieldNN iw))
  | 0x7#4 => .ok (.addImm (fieldX iw) (fieldNN iw))
  | 0x8#4 => decodeFamily8 iw
  | 0x9#4 => if fieldN iw = 0x0#4 then .ok (.sneReg (fieldX iw) (fieldY iw)) else .error (.unrecognized iw)
  | 0xA#4 => .ok (.ldI (fieldNNN iw))
  | 0xB#4 => .ok (.jpV0 (fieldNNN iw))
  | 0xC#4 => .ok (.rnd (fieldX iw) (fieldNN iw))
  | 0xD#4 => .ok (.drw (fieldX iw) (fieldY iw) (fieldN iw))
  | 0xE#4 => decodeFamilyE iw
  | _ => decodeFamilyF iw  -- 0xF, the one value left

/-- The decode procedure of R50: the first test that succeeds decides. Total on all 65536 words (R46). The bit patterns
and the exact match of the discriminators are the spec's D2 and D3 (UNVERIFIED, log 13). -/
def decode (iw : Word) : Except DecodeReject Instr :=
  if iw = 0x00E0#16 then .ok .cls
  else if iw = 0x00EE#16 then .ok .ret
  else decodeFamily iw

/-- The word of two consecutive bytes, the one at the lower address high (R34, R45). -/
def wordOfBytes (hi lo : Byte) : Word := hi ++ lo

/-- Decode the two bytes of an instruction as they stand in memory (R45). -/
def decodeBytes (hi lo : Byte) : Except DecodeReject Instr := decode (wordOfBytes hi lo)

/-- The byte `iw[15:8]`, at the lower address (R34). -/
def highByte (iw : Word) : Byte := iw.extractLsb' 8 8

/-- The byte `iw[7:0]`, at the higher address (R34). -/
def lowByte (iw : Word) : Byte := iw.extractLsb' 0 8

/-- The word whose bits are `w` as the opcode table numbers them, the bits above `nbits` zero. Every instruction is
one 16-bit word (R45). -/
def tableWord (nbits w : Nat) : Word := BitVec.ofNat 16 (w % 2 ^ nbits)

/-- What the decoder reads from a table word laid out in memory, high byte first. -/
def decodeTableWord (nbits w : Nat) : Option Instr :=
  (decodeBytes (highByte (tableWord nbits w)) (lowByte (tableWord nbits w))).toOption

/-- The word of an instruction, from the patterns of R49. -/
def encode : Instr → Word
  | .cls => 0x00E0#16
  | .ret => 0x00EE#16
  | .sys nnn => 0x0#4 ++ nnn
  | .jp nnn => 0x1#4 ++ nnn
  | .call nnn => 0x2#4 ++ nnn
  | .seImm x nn => 0x3#4 ++ x ++ nn
  | .sneImm x nn => 0x4#4 ++ x ++ nn
  | .seReg x y => 0x5#4 ++ x ++ y ++ 0x0#4
  | .ldImm x nn => 0x6#4 ++ x ++ nn
  | .addImm x nn => 0x7#4 ++ x ++ nn
  | .ldReg x y => 0x8#4 ++ x ++ y ++ 0x0#4
  | .or x y => 0x8#4 ++ x ++ y ++ 0x1#4
  | .and x y => 0x8#4 ++ x ++ y ++ 0x2#4
  | .xor x y => 0x8#4 ++ x ++ y ++ 0x3#4
  | .addReg x y => 0x8#4 ++ x ++ y ++ 0x4#4
  | .sub x y => 0x8#4 ++ x ++ y ++ 0x5#4
  | .shr x y => 0x8#4 ++ x ++ y ++ 0x6#4
  | .subn x y => 0x8#4 ++ x ++ y ++ 0x7#4
  | .shl x y => 0x8#4 ++ x ++ y ++ 0xE#4
  | .sneReg x y => 0x9#4 ++ x ++ y ++ 0x0#4
  | .ldI nnn => 0xA#4 ++ nnn
  | .jpV0 nnn => 0xB#4 ++ nnn
  | .rnd x nn => 0xC#4 ++ x ++ nn
  | .drw x y n => 0xD#4 ++ x ++ y ++ n
  | .skp x => 0xE#4 ++ x ++ 0x9E#8
  | .sknp x => 0xE#4 ++ x ++ 0xA1#8
  | .ldVxDt x => 0xF#4 ++ x ++ 0x07#8
  | .ldVxK x => 0xF#4 ++ x ++ 0x0A#8
  | .ldDtVx x => 0xF#4 ++ x ++ 0x15#8
  | .ldStVx x => 0xF#4 ++ x ++ 0x18#8
  | .addI x => 0xF#4 ++ x ++ 0x1E#8
  | .ldF x => 0xF#4 ++ x ++ 0x29#8
  | .ldB x => 0xF#4 ++ x ++ 0x33#8
  | .ldMemVx x => 0xF#4 ++ x ++ 0x55#8
  | .ldVxMem x => 0xF#4 ++ x ++ 0x65#8

/-- The row name of an instruction, as spec/opcode_table.json spells it. -/
def mnemonic : Instr → String
  | .cls => "CLS"
  | .ret => "RET"
  | .sys _ => "SYS"
  | .jp _ => "JP"
  | .call _ => "CALL"
  | .seImm _ _ => "SE_imm"
  | .sneImm _ _ => "SNE_imm"
  | .seReg _ _ => "SE_reg"
  | .ldImm _ _ => "LD_imm"
  | .addImm _ _ => "ADD_imm"
  | .ldReg _ _ => "LD_reg"
  | .or _ _ => "OR"
  | .and _ _ => "AND"
  | .xor _ _ => "XOR"
  | .addReg _ _ => "ADD_reg"
  | .sub _ _ => "SUB"
  | .shr _ _ => "SHR"
  | .subn _ _ => "SUBN"
  | .shl _ _ => "SHL"
  | .sneReg _ _ => "SNE_reg"
  | .ldI _ => "LD_I"
  | .jpV0 _ => "JP_V0"
  | .rnd _ _ => "RND"
  | .drw _ _ _ => "DRW"
  | .skp _ => "SKP"
  | .sknp _ => "SKNP"
  | .ldVxDt _ => "LD_Vx_DT"
  | .ldVxK _ => "LD_Vx_K"
  | .ldDtVx _ => "LD_DT_Vx"
  | .ldStVx _ => "LD_ST_Vx"
  | .addI _ => "ADD_I"
  | .ldF _ => "LD_F"
  | .ldB _ => "LD_B"
  | .ldMemVx _ => "LD_mem_Vx"
  | .ldVxMem _ => "LD_Vx_mem"

/-- A row of the opcode map of R49: the word selects the row when `iw & mask == match`. -/
structure OpcodeRow where
  mnemonic : String
  mask : Word
  pattern : Word
  deriving DecidableEq, Repr

/-- The opcode map of R49, in the table's order; the first row a word selects is its row, so CLS and RET come before
SYS (R50). -/
def opcodeMap : List OpcodeRow :=
  [⟨"CLS", 0xFFFF, 0x00E0⟩, ⟨"RET", 0xFFFF, 0x00EE⟩, ⟨"SYS", 0xF000, 0x0000⟩, ⟨"JP", 0xF000, 0x1000⟩,
   ⟨"CALL", 0xF000, 0x2000⟩, ⟨"SE_imm", 0xF000, 0x3000⟩, ⟨"SNE_imm", 0xF000, 0x4000⟩,
   ⟨"SE_reg", 0xF00F, 0x5000⟩, ⟨"LD_imm", 0xF000, 0x6000⟩, ⟨"ADD_imm", 0xF000, 0x7000⟩] ++
  [⟨"LD_reg", 0xF00F, 0x8000⟩, ⟨"OR", 0xF00F, 0x8001⟩, ⟨"AND", 0xF00F, 0x8002⟩, ⟨"XOR", 0xF00F, 0x8003⟩,
   ⟨"ADD_reg", 0xF00F, 0x8004⟩, ⟨"SUB", 0xF00F, 0x8005⟩, ⟨"SHR", 0xF00F, 0x8006⟩, ⟨"SUBN", 0xF00F, 0x8007⟩,
   ⟨"SHL", 0xF00F, 0x800E⟩, ⟨"SNE_reg", 0xF00F, 0x9000⟩, ⟨"LD_I", 0xF000, 0xA000⟩, ⟨"JP_V0", 0xF000, 0xB000⟩,
   ⟨"RND", 0xF000, 0xC000⟩, ⟨"DRW", 0xF000, 0xD000⟩] ++
  [⟨"SKP", 0xF0FF, 0xE09E⟩, ⟨"SKNP", 0xF0FF, 0xE0A1⟩, ⟨"LD_Vx_DT", 0xF0FF, 0xF007⟩,
   ⟨"LD_Vx_K", 0xF0FF, 0xF00A⟩, ⟨"LD_DT_Vx", 0xF0FF, 0xF015⟩, ⟨"LD_ST_Vx", 0xF0FF, 0xF018⟩,
   ⟨"ADD_I", 0xF0FF, 0xF01E⟩, ⟨"LD_F", 0xF0FF, 0xF029⟩, ⟨"LD_B", 0xF0FF, 0xF033⟩,
   ⟨"LD_mem_Vx", 0xF0FF, 0xF055⟩, ⟨"LD_Vx_mem", 0xF0FF, 0xF065⟩]

/-- The first row of the opcode map that a word selects (R49, R50). -/
def selectedRow (iw : Word) : Option OpcodeRow := opcodeMap.find? (fun r => (iw &&& r.mask) == r.pattern)

end Sys2Proof
end

