-- ==== Sys2Proof/Machine/Fetch.lean ====
section
/-! DEFINITION. Fetching an instruction and the frame of STEP (spec/40_step_and_dispatch.md R60, R61): everything a
step does around `exec`. -/

namespace Sys2Proof.Machine

/-- Both bytes at `pc` are in memory: `pc <= 0xFFE` (R36, R61; D5, log 11). -/
def fetchOk (s : State) : Bool := decide (s.pc.toNat ≤ 0xFFE)

/-- The bytes at `pc` and `pc + 1` decoded, high byte first (R34). -/
def fetchDecode (s : State) : Except DecodeReject Instr :=
  decodeBytes (s.mem.read s.pc.toNat) (s.mem.read (s.pc.toNat + 1))

/-- STEP around `run`, the execution of a decoded instruction, in the order of R60 and R137: the standing fault, the
fetch range, decode, the instruction. A word the decoder rejects has R64's effect (log 9). -/
def stepWith (run : Instr → State → Answer) (s : State) : Answer :=
  if s.fault ≠ .none then .next s.standStill
  else if !fetchOk s then .next (s.raise .fetchRange)
  else match fetchDecode s with
    | .ok i => run i s
    | .error (.unrecognized word) => .next (s.unrecognized word)

/-- Put the two bytes of an instruction word where the next fetch reads them; nothing where no fetch can be made
(`pc > 0xFFE`). It stands for `LOAD` placing that instruction (R150; log 7). -/
def placeWord (s : State) (iw : Word) : State :=
  if fetchOk s then s.setMemory (writeBytes s.mem s.pc.toNat [highByte iw, lowByte iw]) else s

end Sys2Proof.Machine
end

