-- ==== Sys2Proof/Machine/Step.lean ====
section
/-! DEFINITION. One step of the machine: the event STEP (spec/40_step_and_dispatch.md R60). -/

namespace Sys2Proof.Machine

/-- `STEP`, "execute one instruction" (R60). -/
def step (s : State) : Host.Outcome State Fault Refusal := stepWith exec s

/-- `s` with a table word placed where `step` fetches its next instruction (log 7). -/
def State.withFetchWord (s : State) (nbits w : Nat) : State := placeWord s (tableWord nbits w)

end Sys2Proof.Machine
end

