-- ==== Sys2Proof/Machine/Events.lean ====
section
/-! DEFINITION. The events and reads of the host (spec/00_scope.md R8, 60_exceptions.md R140 to R151,
70_reset_and_hazards.md R160 to R165). Each is atomic and none overlaps another (R43, R170; log 6). -/

namespace Sys2Proof.Machine

/-- `RESET` (R160): every piece of the spec's state takes its reset value, whatever it held (R161). The count of random
draws goes on, so that draws after a RESET are fresh ones (R93; log 2). -/
def resetEvent (s : State) : State := { State.reset with draws := s.draws }

/-- What `LOAD` reports to its caller (R150, R151). -/
inductive LoadReport where
  | loaded
  | loadError
  deriving DecidableEq, Repr

/-- `LOAD(bytes)` (R150): bytes from 0x200 up, or, with more than 3584 bytes, a load error and no state change. -/
def loadProgram (bytes : List Byte) (s : State) : State × LoadReport :=
  if bytes.length > Config.progMax then (s, .loadError)
  else (s.setMemory (writeBytes s.mem Config.progBase bytes), .loaded)

/-- One timer's part of a tick: down by one, floor 0 (R140). -/
def countDown (t : Byte) : Byte := if t.toNat > 0 then BitVec.ofNat 8 (t.toNat - 1) else t

/-- `TICK` (R140): the Timer Regulator, in any state, the fault state included. -/
def tick (s : State) : State := { s with DT := countDown s.DT, ST := countDown s.ST }

/-- `KEY_WRITE(k, b)` (R146). -/
def keyWrite (k : RegIdx) (b : Bool) (s : State) : State := { s with key := s.key.set k.toNat b k.isLt }

/-- `REDRAW_ACK` (R148). -/
def redrawAck (s : State) : State := { s with redraw := false }

/-- The framebuffer read (R147): cell `j` for `j` in 0 to 2047. -/
def readFramebuffer (s : State) (j : Nat) : Bool := fbCell s.fb j

/-- The sound-active read: `ST > 0` (R147). -/
def readSoundActive (s : State) : Bool := decide (s.ST.toNat > 0)

/-- The redraw read (R147). -/
def readRedraw (s : State) : Bool := s.redraw

/-- The number a fault code is read as (R131). -/
def faultNumber : FaultCode → Nat
  | .none => 0
  | .stackOverflow => 1
  | .stackUnderflow => 2
  | .fetchRange => 3
  | .dataRange => 4

/-- The fault read: the code's number and, when there is a fault, `pc` (R149). -/
def readFault (s : State) : Nat × Option Word := (faultNumber s.fault, if s.fault = .none then none else some s.pc)

/-- The events of R8 that can change state. -/
inductive Event where
  | reset
  | load (bytes : List Byte)
  | step
  | tick
  | keyWrite (k : RegIdx) (b : Bool)
  | redrawAck
  deriving DecidableEq, Repr

/-- What one event does. -/
def handle (e : Event) (s : State) : Answer :=
  match e with
  | .reset => .next (resetEvent s)
  | .load bytes => .next (loadProgram bytes s).1
  | .step => Machine.step s
  | .tick => .next (Machine.tick s)
  | .keyWrite k b => .next (Machine.keyWrite k b s)
  | .redrawAck => .next (Machine.redrawAck s)

/-- A run: events one after another, in the order the host issues them (R8, R165). -/
def runEvents : List Event → State → Answer
  | [], s => .next s
  | e :: es, s =>
    match handle e s with
    | .next t => runEvents es t
    | .fault r => .fault r
    | .refused r => .refused r

end Sys2Proof.Machine
end

