-- ==== Sys2Proof/Safety.lean ====
section
/-! DEFINITION. The terms in which claims are stated: how an instruction completes or traps, what it leaves unchanged,
which instructions write which state, and the invariants of the machine. -/

namespace Sys2Proof.Machine

/-- `o` is a next state of which `P` holds. -/
def Completes (o : Answer) (P : State → Prop) : Prop := ∃ t, o = .next t ∧ P t

/-- The step ended with this `pc`, result ADVANCED and no diagnostic record (R65, R66, R136). -/
def AdvancedTo (target : Word) (t : State) : Prop := t.pc = target ∧ t.out = some ⟨.advanced, none⟩

/-- The parts of the state beside the general registers, `pc` and the outputs of a step. -/
inductive Part where
  | I | stack | sp | DT | ST | mem | fb | key | redraw | fault | draws
  deriving DecidableEq, Repr

/-- From `s` to `t` every general register outside `regs` and every part outside `parts` is unchanged. Memory is
compared byte by byte, the framebuffer cell by cell. `pc` and the outputs of the step are stated apart. -/
def Frame (regs : List RegIdx) (parts : List Part) (s t : State) : Prop :=
  (∀ r, r ∉ regs → t.reg r = s.reg r) ∧
  (Part.I ∉ parts → t.I = s.I) ∧
  (Part.stack ∉ parts → t.stack = s.stack) ∧
  (Part.sp ∉ parts → t.sp = s.sp) ∧
  (Part.DT ∉ parts → t.DT = s.DT) ∧
  (Part.ST ∉ parts → t.ST = s.ST) ∧
  (Part.mem ∉ parts → ∀ a, t.mem.read a = s.mem.read a) ∧
  (Part.fb ∉ parts → ∀ j, fbCell t.fb j = fbCell s.fb j) ∧
  (Part.key ∉ parts → t.key = s.key) ∧
  (Part.redraw ∉ parts → t.redraw = s.redraw) ∧
  (Part.fault ∉ parts → t.fault = s.fault) ∧
  (Part.draws ∉ parts → t.draws = s.draws)

/-- From `s` the answer `o` takes the fatal fault `code` (R132): the latch is set, the result is FAULTED, and nothing
else changes, `pc` included. -/
def Traps (code : FaultCode) (s : State) (o : Answer) : Prop :=
  Completes o fun t => t.fault = code ∧ t.out = some ⟨.faulted, none⟩ ∧ t.pc = s.pc ∧ Frame [] [.fault] s t

/-- A sprite of `n` rows at (`V[x]`, `V[y]`) has a set bit on the pixel in column `px`, row `py` (R111, R112). -/
def SpriteBit (s : State) (x y : RegIdx) (n : Nibble) (px py : Nat) : Prop :=
  ∃ row < n.toNat, ∃ col < 8, (s.mem.read (s.I.toNat + row)).getLsbD (7 - col) = true ∧
    px = ((s.reg x).toNat + col) % 64 ∧ py = ((s.reg y).toNat + row) % 32

/-- `fb[px + 64 * py]` (R20). -/
def pixel (s : State) (px py : Nat) : Bool := fbCell s.fb (px + 64 * py)

/-- The instructions that write `V[0xF]` as a side effect (R11). -/
def writesFlag : Instr → Bool
  | .addReg _ _ | .sub _ _ | .subn _ _ | .shr _ _ | .shl _ _ | .drw _ _ _ | .addI _ => true
  | _ => false

/-- The instructions whose destination is `V[X]` of their register field, and that field (R49). -/
def destination : Instr → Option RegIdx
  | .ldImm x _ | .addImm x _ | .ldReg x _ | .or x _ | .and x _ | .xor x _ | .addReg x _ | .sub x _ | .shr x _
  | .subn x _ | .shl x _ | .rnd x _ | .ldVxDt x | .ldVxK x => some x
  | _ => none

/-- The instructions that write `I` (R15). -/
def writesIndex : Instr → Bool
  | .ldI _ | .addI _ | .ldF _ | .ldMemVx _ | .ldVxMem _ => true
  | _ => false

/-- The instructions that write main memory (R38). -/
def writesMemory : Instr → Bool
  | .ldB _ | .ldMemVx _ => true
  | _ => false

/-- The addresses an instruction's data accesses touch, as a count of bytes from `I` (R38, R106). -/
def dataBytes : Instr → Nat
  | .drw _ _ n => n.toNat
  | .ldB _ => 3
  | .ldMemVx x | .ldVxMem x => x.toNat + 1
  | _ => 0

/-- Every return address on the call stack is one a CALL could push, and `pc` is one of the values of R14. -/
def ControlInRange (s : State) : Prop := (∀ j : Fin 16, s.stack[j].toNat ≤ 0xFFE) ∧ s.pc.toNat ≤ 0x10FE

/-- The invariants of the machine: memory in canonical form, control in range. -/
def Inv (s : State) : Prop := s.mem.wf = true ∧ ControlInRange s

end Sys2Proof.Machine
end

