-- ==== Sys2Proof/Certificates/Slice0/Obligations.lean ====
section
/-! DEFINITION. The statements for the provers. Each docstring names the rules of spec/ it states. Where a statement
rests on one of the spec's own decisions (D<n> of 92_eei_decisions.md), its docstring says so. -/

open Sys2Proof Sys2Proof.Machine

/-! ### Encoding -/

/-- R49, R50: the decoder reads back every well-formed instruction, with every operand at every value. -/
def Obligations.DecodeOfEncodeGivesTheInstruction : Prop :=
  ∀ i : Instr, i.wf = true → decode (encode i) = .ok i

/-- R49, R50, R51: the instruction a word decodes to is well formed and encodes to that word again, so decoding drops
no bit (the ignored Y of SHR and SHL included). -/
def Obligations.EncodeOfDecodeGivesTheWord : Prop :=
  ∀ (w : Word) (i : Instr), decode w = .ok i → i.wf = true ∧ encode i = w

/-- R49, R50: the decode procedure and the mask and match columns of the opcode map choose the same row for every
word, CLS and RET first. Bit patterns and exact matching are the spec's D2, D3. -/
def Obligations.DecodeChoosesTheRowOfTheOpcodeMap : Prop :=
  ∀ w : Word, (decode w).toOption.map mnemonic = (selectedRow w).map OpcodeRow.mnemonic

/-- R52: which words are unrecognized, family by family; those of family 0 are the SYS row, the others have no row. -/
def Obligations.UnrecognizedWordsAreThoseOfTheFamilyTable : Prop :=
  ∀ w : Word,
    (decode w = .ok (.sys (fieldNNN w)) ↔ fieldOp w = 0x0#4 ∧ w ≠ 0x00E0#16 ∧ w ≠ 0x00EE#16) ∧
    (decode w = .error (.unrecognized w) ↔
      (fieldOp w = 0x5#4 ∧ fieldN w ≠ 0x0#4) ∨
      (fieldOp w = 0x8#4 ∧ fieldN w ∈ [0x8#4, 0x9#4, 0xA#4, 0xB#4, 0xC#4, 0xD#4, 0xF#4]) ∨
      (fieldOp w = 0x9#4 ∧ fieldN w ≠ 0x0#4) ∨
      (fieldOp w = 0xE#4 ∧ fieldNN w ∉ [0x9E#8, 0xA1#8]) ∨
      (fieldOp w = 0xF#4 ∧
        fieldNN w ∉ [0x07#8, 0x0A#8, 0x15#8, 0x18#8, 0x1E#8, 0x29#8, 0x33#8, 0x55#8, 0x65#8]))

/-- R49: the three words the source shows, and four more words written out from the opcode map (D2), decode to the
instructions they stand for; the eighth word, F166, is no word of the map and is rejected (R52). -/
def Obligations.SampleWordsDecodeAsTheSpecSays : Prop :=
  decodeBytes 0x60#8 0x05#8 = .ok (.ldImm 0x0#4 0x05#8) ∧
  decodeBytes 0xA0#8 0x50#8 = .ok (.ldI 0x050#12) ∧
  decodeBytes 0xD0#8 0x05#8 = .ok (.drw 0x0#4 0x0#4 0x5#4) ∧
  decodeBytes 0x00#8 0xEE#8 = .ok .ret ∧
  decodeBytes 0x83#8 0xA6#8 = .ok (.shr 0x3#4 0xA#4) ∧
  decodeBytes 0xE4#8 0xA1#8 = .ok (.sknp 0x4#4) ∧
  decodeBytes 0xF2#8 0x65#8 = .ok (.ldVxMem 0x2#4) ∧
  decodeBytes 0xF1#8 0x66#8 = .error (.unrecognized 0xF166#16)

/-! ### The step -/

/-- R60, R34: with no fault latched and both bytes at `pc` in memory, when those bytes, high byte first, decode to
`i`, a step is exactly `exec i`; the step adds nothing around it. -/
def Obligations.StepRunsTheDecodedInstruction : Prop :=
  ∀ (s : State) (i : Instr), s.fault = .none → s.pc.toNat ≤ 0xFFE →
    decodeBytes (s.mem.read s.pc.toNat) (s.mem.read (s.pc.toNat + 1)) = .ok i → step s = exec i s

/-- R64: SYS, and a step on any word without a row, emit one record of the word and its address, advance `pc` by 2 and
change nothing else. -/
def Obligations.UnrecognizedWordReportsAndAdvances : Prop :=
  (∀ (nnn : Addr12) (s : State), Completes (exec (.sys nnn) s) fun t =>
    t.out = some ⟨.advanced, some ⟨0x0#4 ++ nnn, s.pc⟩⟩ ∧ t.pc = s.pc + 2#16 ∧ Frame [] [] s t) ∧
  (∀ (s : State) (w : Word), s.fault = .none → s.pc.toNat ≤ 0xFFE →
    w = s.mem.read s.pc.toNat ++ s.mem.read (s.pc.toNat + 1) → decode w = .error (.unrecognized w) →
    Completes (step s) fun t =>
      t.out = some ⟨.advanced, some ⟨w, s.pc⟩⟩ ∧ t.pc = s.pc + 2#16 ∧ Frame [] [] s t)

/-- R61, R36: a step with `pc` above 0xFFE takes FETCH_RANGE and changes nothing else. The spec's D5 and D16. -/
def Obligations.FetchAboveMemoryTakesFetchRange : Prop :=
  ∀ s : State, s.fault = .none → s.pc.toNat > 0xFFE → Traps .fetchRange s (step s)

/-- R60, R132: with a fault latched a step answers FAULTED and changes nothing. The spec's D16. -/
def Obligations.StandingFaultStopsEveryStep : Prop :=
  ∀ s : State, s.fault ≠ .none → Completes (step s) fun t =>
    t.out = some ⟨.faulted, none⟩ ∧ t.pc = s.pc ∧ Frame [] [] s t

/-- R62, R130, R132: in every state every instruction, and so every step, answers a next state; so does every run of
host events. -/
def Obligations.EveryRunOfEventsAnswersANextState : Prop :=
  (∀ (i : Instr) (s : State), ∃ t, exec i s = .next t) ∧ (∀ s : State, ∃ t, step s = .next t) ∧
  (∀ (es : List Event) (s : State), ∃ t, runEvents es s = .next t)

/-! ### Control transfer -/

/-- R70, R134: RET with an empty stack takes STACK_UNDERFLOW; else it sets `pc` to the popped entry plus 2 and only
`sp` changes. The latch is the spec's D16. -/
def Obligations.RetPopsOrUnderflows : Prop :=
  (∀ s : State, s.sp.val = 0 → Traps .stackUnderflow s (exec .ret s)) ∧
  (∀ (s : State) (d : Fin 16), s.sp.val = d.val + 1 → Completes (exec .ret s) fun t =>
    AdvancedTo (s.stack[d] + 2#16) t ∧ t.sp.val = d.val ∧ Frame [] [.sp] s t)

/-- R72, R133: CALL with a full stack takes STACK_OVERFLOW; else it pushes its own address, and no other entry
changes. Pushing the CALL's own address is the spec's D4, the latch its D16. -/
def Obligations.CallPushesOrOverflows : Prop :=
  (∀ (nnn : Addr12) (s : State), s.sp.val = 16 → Traps .stackOverflow s (exec (.call nnn) s)) ∧
  (∀ (nnn : Addr12) (s : State) (d : Fin 16), s.sp.val = d.val → Completes (exec (.call nnn) s) fun t =>
    AdvancedTo (nnn.setWidth 16) t ∧ t.stack[d] = s.pc ∧ (∀ j : Fin 16, j ≠ d → t.stack[j] = s.stack[j]) ∧
    t.sp.val = d.val + 1 ∧ Frame [] [.stack, .sp] s t)

/-- R71: JP sets `pc` to NNN and changes nothing else. -/
def Obligations.JumpSetsPc : Prop :=
  ∀ (nnn : Addr12) (s : State), decode (0x1#4 ++ nnn) = .ok (.jp nnn) ∧
    Completes (exec (.jp nnn) s) fun t => AdvancedTo (nnn.setWidth 16) t ∧ Frame [] [] s t

/-- R77: JP_V0 sets `pc` to NNN plus register 0, not masked to 12 bits, and changes nothing else. -/
def Obligations.JumpWithOffsetAddsRegisterZero : Prop :=
  ∀ (nnn : Addr12) (s : State), decode (0xB#4 ++ nnn) = .ok (.jpV0 nnn) ∧
    Completes (exec (.jpV0 nnn) s) fun t =>
      t.pc.toNat = nnn.toNat + (s.reg 0x0#4).toNat ∧ t.out = some ⟨.advanced, none⟩ ∧ Frame [] [] s t

/-- R73, R74: SE_imm and SNE_imm add 4 to `pc` if their condition holds, else 2, and change nothing else. -/
def Obligations.ImmediateSkipsFollowTheirCondition : Prop :=
  ∀ (x : RegIdx) (nn : Byte) (s : State),
    decode (0x3#4 ++ x ++ nn) = .ok (.seImm x nn) ∧ decode (0x4#4 ++ x ++ nn) = .ok (.sneImm x nn) ∧
    (Completes (exec (.seImm x nn) s) fun t =>
      AdvancedTo (if s.reg x = nn then s.pc + 4#16 else s.pc + 2#16) t ∧ Frame [] [] s t) ∧
    (Completes (exec (.sneImm x nn) s) fun t =>
      AdvancedTo (if s.reg x ≠ nn then s.pc + 4#16 else s.pc + 2#16) t ∧ Frame [] [] s t)

/-- R75, R76: SE_reg and SNE_reg add 4 to `pc` if their condition holds, else 2, and change nothing else. -/
def Obligations.RegisterSkipsFollowTheirCondition : Prop :=
  ∀ (x y : RegIdx) (s : State),
    decode (0x5#4 ++ x ++ y ++ 0x0#4) = .ok (.seReg x y) ∧ decode (0x9#4 ++ x ++ y ++ 0x0#4) = .ok (.sneReg x y) ∧
    (Completes (exec (.seReg x y) s) fun t =>
      AdvancedTo (if s.reg x = s.reg y then s.pc + 4#16 else s.pc + 2#16) t ∧ Frame [] [] s t) ∧
    (Completes (exec (.sneReg x y) s) fun t =>
      AdvancedTo (if s.reg x ≠ s.reg y then s.pc + 4#16 else s.pc + 2#16) t ∧ Frame [] [] s t)

/-- R79: after a CALL at address `a` with `sp` = `d`, the matching RET (`sp` = `d + 1`, the entry untouched) sets `pc`
to `a + 2` and `sp` to `d`, whatever ran in between. -/
def Obligations.CallThenMatchingReturnRoundTrip : Prop :=
  ∀ (nnn : Addr12) (s t u : State) (d : Fin 16), s.sp.val = d.val → exec (.call nnn) s = .next t →
    u.sp = t.sp → u.stack[d] = t.stack[d] →
    Completes (exec .ret u) fun v => v.pc = s.pc + 2#16 ∧ v.sp = s.sp

/-! ### Registers and ALU -/

/-- R80, R81: LD_imm and ADD_imm write `V[X]` alone; ADD_imm wraps modulo 256 and writes no flag. -/
def Obligations.ImmediateLoadAndAddWriteOneRegister : Prop :=
  ∀ (x : RegIdx) (nn : Byte) (s : State),
    decode (0x6#4 ++ x ++ nn) = .ok (.ldImm x nn) ∧ decode (0x7#4 ++ x ++ nn) = .ok (.addImm x nn) ∧
    (Completes (exec (.ldImm x nn) s) fun t =>
      t.reg x = nn ∧ AdvancedTo (s.pc + 2#16) t ∧ Frame [x] [] s t) ∧
    (Completes (exec (.addImm x nn) s) fun t =>
      (t.reg x).toNat = ((s.reg x).toNat + nn.toNat) % 256 ∧ AdvancedTo (s.pc + 2#16) t ∧ Frame [x] [] s t)

/-- R82 to R85: move, OR, AND and XOR write `V[X]` alone and do not touch the flag register. -/
def Obligations.MoveAndBitwiseWriteOneRegister : Prop :=
  ∀ (x y : RegIdx) (s : State),
    decode (0x8#4 ++ x ++ y ++ 0x0#4) = .ok (.ldReg x y) ∧ decode (0x8#4 ++ x ++ y ++ 0x1#4) = .ok (.or x y) ∧
    decode (0x8#4 ++ x ++ y ++ 0x2#4) = .ok (.and x y) ∧ decode (0x8#4 ++ x ++ y ++ 0x3#4) = .ok (.xor x y) ∧
    (Completes (exec (.ldReg x y) s) fun t =>
      t.reg x = s.reg y ∧ AdvancedTo (s.pc + 2#16) t ∧ Frame [x] [] s t) ∧
    (Completes (exec (.or x y) s) fun t =>
      t.reg x = s.reg x ||| s.reg y ∧ AdvancedTo (s.pc + 2#16) t ∧ Frame [x] [] s t) ∧
    (Completes (exec (.and x y) s) fun t =>
      t.reg x = s.reg x &&& s.reg y ∧ AdvancedTo (s.pc + 2#16) t ∧ Frame [x] [] s t) ∧
    (Completes (exec (.xor x y) s) fun t =>
      t.reg x = s.reg x ^^^ s.reg y ∧ AdvancedTo (s.pc + 2#16) t ∧ Frame [x] [] s t)

/-- R86: the sum modulo 256 in `V[X]` and the carry in `V[0xF]`. With X = 0xF the flag survives (the spec's D8). -/
def Obligations.AddRegistersGivesSumAndCarry : Prop :=
  ∀ (x y : RegIdx) (s : State), Completes (exec (.addReg x y) s) fun t =>
    t.reg 0xF#4 = (if (s.reg x).toNat + (s.reg y).toNat > 255 then 1#8 else 0#8) ∧
    (x ≠ 0xF#4 → (t.reg x).toNat = ((s.reg x).toNat + (s.reg y).toNat) % 256) ∧
    AdvancedTo (s.pc + 2#16) t ∧ Frame [x, 0xF#4] [] s t

/-- R87, R88: the difference modulo 256 in `V[X]`, and in `V[0xF]` 1 if the minuend is at least the subtrahend. With
X = 0xF the flag survives (the spec's D8). -/
def Obligations.SubtractGivesDifferenceAndNoBorrow : Prop :=
  ∀ (x y : RegIdx) (s : State),
    (Completes (exec (.sub x y) s) fun t =>
      t.reg 0xF#4 = (if (s.reg x).toNat ≥ (s.reg y).toNat then 1#8 else 0#8) ∧
      (x ≠ 0xF#4 → ((t.reg x).toNat : Int) = ((s.reg x).toNat - (s.reg y).toNat : Int) % 256) ∧
      AdvancedTo (s.pc + 2#16) t ∧ Frame [x, 0xF#4] [] s t) ∧
    (Completes (exec (.subn x y) s) fun t =>
      t.reg 0xF#4 = (if (s.reg y).toNat ≥ (s.reg x).toNat then 1#8 else 0#8) ∧
      (x ≠ 0xF#4 → ((t.reg x).toNat : Int) = ((s.reg y).toNat - (s.reg x).toNat : Int) % 256) ∧
      AdvancedTo (s.pc + 2#16) t ∧ Frame [x, 0xF#4] [] s t)

/-- R91, R92, R51: shift `V[X]` by one, whatever Y is; the bit shifted out in `V[0xF]`. With X = 0xF the flag survives
(the spec's D8). -/
def Obligations.ShiftsMoveOneBitIntoTheFlag : Prop :=
  ∀ (x y : RegIdx) (s : State),
    (Completes (exec (.shr x y) s) fun t =>
      t.reg 0xF#4 = (if (s.reg x).getLsbD 0 then 1#8 else 0#8) ∧
      (x ≠ 0xF#4 → (t.reg x).toNat = (s.reg x).toNat / 2) ∧ AdvancedTo (s.pc + 2#16) t ∧ Frame [x, 0xF#4] [] s t) ∧
    (Completes (exec (.shl x y) s) fun t =>
      t.reg 0xF#4 = (if (s.reg x).getLsbD 7 then 1#8 else 0#8) ∧
      (x ≠ 0xF#4 → (t.reg x).toNat = (s.reg x).toNat * 2 % 256) ∧
      AdvancedTo (s.pc + 2#16) t ∧ Frame [x, 0xF#4] [] s t)

/-- R94: on a register other than 0xF, shifting one way and back restores the value when no bit is lost, and each
flag is the bit shifted out. -/
def Obligations.ShiftThereAndBackRestores : Prop :=
  ∀ (x y z : RegIdx) (s : State), x ≠ 0xF#4 →
    ((s.reg x).getLsbD 0 = false → Completes (exec (.shr x y) s) fun t =>
      t.reg 0xF#4 = 0#8 ∧ Completes (exec (.shl x z) t) fun u => u.reg x = s.reg x ∧ u.reg 0xF#4 = 0#8) ∧
    ((s.reg x).getLsbD 7 = false → Completes (exec (.shl x y) s) fun t =>
      t.reg 0xF#4 = 0#8 ∧ Completes (exec (.shr x z) t) fun u => u.reg x = s.reg x ∧ u.reg 0xF#4 = 0#8)

/-- R93: RND writes a byte drawn from the free source under the mask NN, so every bit outside NN is 0, and the next
draw is a new one. The source is the spec's D14, the free value of log 2; the statement holds for every value of every
draw. -/
def Obligations.RandomByteStaysUnderItsMask : Prop :=
  ∀ (x : RegIdx) (nn : Byte) (s : State), Completes (exec (.rnd x nn) s) fun t =>
    t.reg x = Config.rnd s.draws &&& nn ∧ t.reg x &&& ~~~nn = 0#8 ∧ t.draws = s.draws + 1 ∧
    AdvancedTo (s.pc + 2#16) t ∧ Frame [x] [.draws] s t

/-! ### Index register and memory -/

/-- R100: LD_I sets `I` to NNN and changes nothing else. -/
def Obligations.SetIndexLoadsTheAddress : Prop :=
  ∀ (nnn : Addr12) (s : State), decode (0xA#4 ++ nnn) = .ok (.ldI nnn) ∧
    Completes (exec (.ldI nnn) s) fun t =>
      t.I = nnn.setWidth 16 ∧ AdvancedTo (s.pc + 2#16) t ∧ Frame [] [.I] s t

/-- R101: ADD_I keeps the 16-bit sum (the spec's D7); the flag says whether the unbounded sum exceeds 0xFFF. With
X = 0xF the old flag register is the addend. -/
def Obligations.AddToIndexFlagsSumsAboveMemory : Prop :=
  ∀ (x : RegIdx) (s : State), Completes (exec (.addI x) s) fun t =>
    t.I.toNat = (s.I.toNat + (s.reg x).toNat) % 65536 ∧
    t.reg 0xF#4 = (if s.I.toNat + (s.reg x).toNat > 0xFFF then 1#8 else 0#8) ∧
    AdvancedTo (s.pc + 2#16) t ∧ Frame [0xF#4] [.I] s t

/-- R102: LD_F sets `I` to 0x050 + 5 * V[X], V[X] not masked (the spec's D11). -/
def Obligations.FontAddressIsBasePlusFiveTimesDigit : Prop :=
  ∀ (x : RegIdx) (s : State), Completes (exec (.ldF x) s) fun t =>
    t.I.toNat = 0x050 + 5 * (s.reg x).toNat ∧ AdvancedTo (s.pc + 2#16) t ∧ Frame [] [.I] s t

/-- R103, R37: LD_B stores the hundreds, tens and ones digits at `I`, `I + 1`, `I + 2`, and no other byte of memory
changes; with an address above 0xFFF it takes DATA_RANGE (the spec's D6, D16). -/
def Obligations.BcdStoresThreeDigitsOrTraps : Prop :=
  ∀ (x : RegIdx) (s : State),
    (s.I.toNat + 2 > 0xFFF → Traps .dataRange s (exec (.ldB x) s)) ∧
    (s.I.toNat + 2 ≤ 0xFFF → Completes (exec (.ldB x) s) fun t =>
      (t.mem.read s.I.toNat).toNat = (s.reg x).toNat / 100 ∧
      (t.mem.read (s.I.toNat + 1)).toNat = (s.reg x).toNat / 10 % 10 ∧
      (t.mem.read (s.I.toNat + 2)).toNat = (s.reg x).toNat % 10 ∧
      (∀ a, (∀ k < 3, a ≠ s.I.toNat + k) → t.mem.read a = s.mem.read a) ∧
      AdvancedTo (s.pc + 2#16) t ∧ Frame [] [.mem] s t)

/-- R104, R37: register dump stores `V[0]` to `V[X]` at `I` to `I + X`, and no other byte of memory changes; `I`
advances by X + 1; with an address above 0xFFF it takes DATA_RANGE (the spec's D6, D16). -/
def Obligations.RegisterDumpStoresOrTraps : Prop :=
  ∀ (x : RegIdx) (s : State),
    (s.I.toNat + x.toNat > 0xFFF → Traps .dataRange s (exec (.ldMemVx x) s)) ∧
    (s.I.toNat + x.toNat ≤ 0xFFF → Completes (exec (.ldMemVx x) s) fun t =>
      (∀ r : RegIdx, r.toNat ≤ x.toNat → t.mem.read (s.I.toNat + r.toNat) = s.reg r) ∧
      (∀ a, (∀ k ≤ x.toNat, a ≠ s.I.toNat + k) → t.mem.read a = s.mem.read a) ∧
      t.I.toNat = (s.I.toNat + x.toNat + 1) % 65536 ∧ AdvancedTo (s.pc + 2#16) t ∧ Frame [] [.mem, .I] s t)

/-- R105, R37: register load fills `V[0]` to `V[X]` from `I` to `I + X`; registers above X and memory are unchanged;
`I` advances by X + 1; with an address above 0xFFF it takes DATA_RANGE (the spec's D6, D16). -/
def Obligations.RegisterLoadReadsOrTraps : Prop :=
  ∀ (x : RegIdx) (s : State),
    (s.I.toNat + x.toNat > 0xFFF → Traps .dataRange s (exec (.ldVxMem x) s)) ∧
    (s.I.toNat + x.toNat ≤ 0xFFF → Completes (exec (.ldVxMem x) s) fun t =>
      (∀ r : RegIdx, r.toNat ≤ x.toNat → t.reg r = s.mem.read (s.I.toNat + r.toNat)) ∧
      (∀ r : RegIdx, r.toNat > x.toNat → t.reg r = s.reg r) ∧
      t.I.toNat = (s.I.toNat + x.toNat + 1) % 65536 ∧ AdvancedTo (s.pc + 2#16) t ∧
      Frame ((List.range (x.toNat + 1)).map (BitVec.ofNat 4)) [.I] s t)

/-- R105: register load is the inverse of register dump: with `I` set back, the registers 0 to X take their dumped
values again, whatever they held in between. -/
def Obligations.LoadAfterDumpRestoresTheRegisters : Prop :=
  ∀ (x : RegIdx) (s t u : State), s.I.toNat + x.toNat ≤ 0xFFF → exec (.ldMemVx x) s = .next t →
    u.mem = t.mem → u.I = s.I →
    Completes (exec (.ldVxMem x) u) fun v =>
      (∀ r : RegIdx, r.toNat ≤ x.toNat → v.reg r = s.reg r) ∧ v.I = t.I

/-- R42: a step that follows a register dump fetches the bytes just stored, when `pc` points into them. -/
def Obligations.DumpedCodeIsFetchedAsStored : Prop :=
  ∀ (x : RegIdx) (s t : State) (k : Nat), s.I.toNat + x.toNat ≤ 0xFFF → exec (.ldMemVx x) s = .next t →
    k < x.toNat → t.pc.toNat = s.I.toNat + k →
    fetchDecode t = decodeBytes (s.reg (BitVec.ofNat 4 k)) (s.reg (BitVec.ofNat 4 (k + 1)))

/-! ### Display -/

/-- R110: CLS clears all 2048 cells, sets the redraw flag, and changes nothing else. -/
def Obligations.ClearScreenClearsEveryCell : Prop :=
  ∀ s : State, decode 0x00E0#16 = .ok .cls ∧ Completes (exec .cls s) fun t =>
    (∀ j < 2048, fbCell t.fb j = false) ∧ t.redraw = true ∧ AdvancedTo (s.pc + 2#16) t ∧
    Frame [] [.fb, .redraw] s t

/-- R111, R112, R37: DRW inverts exactly the pixels under a set sprite bit, each wrapped on its own, and `V[0xF]` says
whether one of them was on; N = 0 draws nothing; a sprite byte above 0xFFF is DATA_RANGE. The geometry is the spec's
D13, the range fault its D6 and D16, the flag after the position is read its D8. -/
def Obligations.DrawInvertsThePixelsUnderTheSprite : Prop :=
  ∀ (x y : RegIdx) (n : Nibble) (s : State),
    (0 < n.toNat → s.I.toNat + n.toNat - 1 > 0xFFF → Traps .dataRange s (exec (.drw x y n) s)) ∧
    (n.toNat = 0 ∨ s.I.toNat + n.toNat - 1 ≤ 0xFFF → Completes (exec (.drw x y n) s) fun t =>
      (∀ px < 64, ∀ py < 32, (SpriteBit s x y n px py → pixel t px py = !pixel s px py) ∧
        (¬ SpriteBit s x y n px py → pixel t px py = pixel s px py)) ∧
      ((∃ px < 64, ∃ py < 32, SpriteBit s x y n px py ∧ pixel s px py = true) → t.reg 0xF#4 = 1#8) ∧
      ((¬ ∃ px < 64, ∃ py < 32, SpriteBit s x y n px py ∧ pixel s px py = true) → t.reg 0xF#4 = 0#8) ∧
      t.redraw = true ∧ AdvancedTo (s.pc + 2#16) t ∧ Frame [0xF#4] [.fb, .redraw] s t)

/-- R114: the same DRW twice, with X and Y other than 0xF, restores every cell, and the second flag is 1 if and only if
some pixel under a set sprite bit was off before the first draw. -/
def Obligations.DrawingTwiceRestoresTheScreen : Prop :=
  ∀ (x y : RegIdx) (n : Nibble) (s t u : State), x ≠ 0xF#4 → y ≠ 0xF#4 →
    (n.toNat = 0 ∨ s.I.toNat + n.toNat - 1 ≤ 0xFFF) →
    exec (.drw x y n) s = .next t → exec (.drw x y n) t = .next u →
    (∀ j < 2048, fbCell u.fb j = fbCell s.fb j) ∧
    (u.reg 0xF#4 = 1#8 ↔ ∃ px < 64, ∃ py < 32, SpriteBit s x y n px py ∧ pixel s px py = false)

/-! ### Keys and timers -/

/-- R120, R121: SKP and SKNP test the key that the low four bits of `V[X]` select (the spec's D10) and change nothing
but `pc`. -/
def Obligations.KeySkipsTestTheSelectedKey : Prop :=
  ∀ (x : RegIdx) (s : State) (k : Fin 16), k.val = (s.reg x).toNat % 16 →
    (Completes (exec (.skp x) s) fun t =>
      AdvancedTo (if s.key[k] = true then s.pc + 4#16 else s.pc + 2#16) t ∧ Frame [] [] s t) ∧
    (Completes (exec (.sknp x) s) fun t =>
      AdvancedTo (if s.key[k] = false then s.pc + 4#16 else s.pc + 2#16) t ∧ Frame [] [] s t)

/-- R123: LD_Vx_K with no key pressed is a stall that changes nothing, `pc` included; else `V[X]` takes the least
pressed key. -/
def Obligations.WaitForKeyStallsOrTakesTheLeastKey : Prop :=
  ∀ (x : RegIdx) (s : State), decode (0xF#4 ++ x ++ 0x0A#8) = .ok (.ldVxK x) ∧
    ((∀ j : Fin 16, s.key[j] = false) → Completes (exec (.ldVxK x) s) fun t =>
      t.out = some ⟨.stalled, none⟩ ∧ t.pc = s.pc ∧ Frame [] [] s t) ∧
    (∀ k : Fin 16, s.key[k] = true → (∀ j : Fin 16, j < k → s.key[j] = false) →
      Completes (exec (.ldVxK x) s) fun t =>
        (t.reg x).toNat = k.val ∧ AdvancedTo (s.pc + 2#16) t ∧ Frame [x] [] s t)

/-- R122, R124, R125: the timer moves; the sound-active read follows LD_ST_Vx at once. -/
def Obligations.TimerInstructionsMoveOneValue : Prop :=
  ∀ (x : RegIdx) (s : State),
    decode (0xF#4 ++ x ++ 0x07#8) = .ok (.ldVxDt x) ∧ decode (0xF#4 ++ x ++ 0x15#8) = .ok (.ldDtVx x) ∧
    decode (0xF#4 ++ x ++ 0x18#8) = .ok (.ldStVx x) ∧
    (Completes (exec (.ldVxDt x) s) fun t => t.reg x = s.DT ∧ AdvancedTo (s.pc + 2#16) t ∧ Frame [x] [] s t) ∧
    (Completes (exec (.ldDtVx x) s) fun t => t.DT = s.reg x ∧ AdvancedTo (s.pc + 2#16) t ∧ Frame [] [.DT] s t) ∧
    (Completes (exec (.ldStVx x) s) fun t => t.ST = s.reg x ∧ (readSoundActive t = true ↔ (s.reg x).toNat > 0) ∧
      AdvancedTo (s.pc + 2#16) t ∧ Frame [] [.ST] s t)

/-! ### Host events -/

/-- R140: TICK takes 1 from each timer that is not 0, and changes nothing else, in any state (the fault state is the
spec's D16). -/
def Obligations.TickCountsBothTimersDown : Prop :=
  ∀ s : State, Completes (handle .tick s) fun t =>
    (s.DT.toNat > 0 → t.DT.toNat = s.DT.toNat - 1) ∧ (s.DT.toNat = 0 → t.DT = 0#8) ∧
    (s.ST.toNat > 0 → t.ST.toNat = s.ST.toNat - 1) ∧ (s.ST.toNat = 0 → t.ST = 0#8) ∧
    t.pc = s.pc ∧ t.out = s.out ∧ Frame [] [.DT, .ST] s t

/-- R141, S8: after `n` ticks a timer holds what is left of its value, 0 from then on, never less. -/
def Obligations.TicksReachZeroAndStay : Prop :=
  ∀ (n : Nat) (s : State), Completes (runEvents (List.replicate n .tick) s) fun t =>
    t.DT.toNat = s.DT.toNat - n ∧ t.ST.toNat = s.ST.toNat - n

/-- R146: KEY_WRITE sets one key flag and nothing else. -/
def Obligations.KeyWriteSetsOneKey : Prop :=
  ∀ (k : RegIdx) (b : Bool) (s : State), Completes (handle (.keyWrite k b) s) fun t =>
    t.keyDown k = b ∧ (∀ j, j ≠ k → t.keyDown j = s.keyDown j) ∧ t.pc = s.pc ∧ t.out = s.out ∧ Frame [] [.key] s t

/-- R148: REDRAW_ACK clears the redraw flag and changes nothing else. The event is the spec's D19. -/
def Obligations.RedrawAckClearsTheFlag : Prop :=
  ∀ s : State, Completes (handle .redrawAck s) fun t =>
    t.redraw = false ∧ t.pc = s.pc ∧ t.out = s.out ∧ Frame [] [.redraw] s t

/-- R150, R151: LOAD of at most 3584 bytes puts them at 0x200 upward and changes no other byte and no other state;
a longer one is a load error that changes nothing. The spec's D21. -/
def Obligations.LoadWritesTheProgramOrReportsAnError : Prop :=
  ∀ (bytes : List Byte) (s : State),
    (bytes.length > 3584 → (loadProgram bytes s).2 = .loadError ∧ handle (.load bytes) s = .next s) ∧
    (bytes.length ≤ 3584 → (loadProgram bytes s).2 = .loaded ∧ Completes (handle (.load bytes) s) fun t =>
      (∀ k < bytes.length, t.mem.read (0x200 + k) = bytes.getD k 0#8) ∧
      (∀ a, (∀ k < bytes.length, a ≠ 0x200 + k) → t.mem.read a = s.mem.read a) ∧
      t.pc = s.pc ∧ t.out = s.out ∧ Frame [] [.mem] s t)

/-- R162: after RESET and LOAD of any program, `pc` is 0x200, the font table is in place, and the first step fetches
from 0x200. The font bytes are the spec's D12. -/
def Obligations.LoadedMachineStartsAtTheEntryPoint : Prop :=
  ∀ (bytes : List Byte) (s : State), Completes (runEvents [.reset, .load bytes] s) fun t =>
    t.pc = 0x200#16 ∧ (∀ k < 80, t.mem.read (0x050 + k) = Config.fontTable.getD k 0#8) ∧
    fetchDecode t = decodeBytes (t.mem.read 0x200) (t.mem.read 0x201)

/-- R26, R160: the values after RESET. Those of `I`, memory outside the font, the keys, `redraw` and `fault` are the
spec's D15, D16, D19, the font bytes its D12. -/
def Obligations.ResetGivesTheTableOfResetValues : Prop :=
  ∀ s : State, Completes (handle .reset s) fun t =>
    (∀ r, t.reg r = 0#8) ∧ t.I = 0#16 ∧ t.pc = 0x200#16 ∧ t.sp = 0 ∧ (∀ j : Fin 16, t.stack[j] = 0#16) ∧
    t.DT = 0#8 ∧ t.ST = 0#8 ∧ (∀ k < 80, t.mem.read (0x050 + k) = Config.fontTable.getD k 0#8) ∧
    (∀ a < 4096, a < 0x050 ∨ 0x09F < a → t.mem.read a = 0#8) ∧ (∀ j < 2048, fbCell t.fb j = false) ∧
    (∀ k : Fin 16, t.key[k] = false) ∧ t.redraw = false ∧ t.fault = .none

/-! ### Invariants and rules of the whole machine -/

/-- R26: the state after RESET meets the invariants. -/
def Obligations.ResetMeetsTheInvariants : Prop := Inv State.reset

/-- R30, R38: every step, and every event of the host, keeps memory in its canonical form. -/
def Obligations.EveryEventKeepsMemoryCanonical : Prop :=
  (∀ s t : State, s.mem.wf = true → step s = .next t → t.mem.wf = true) ∧
  (∀ (e : Event) (s t : State), s.mem.wf = true → handle e s = .next t → t.mem.wf = true)

/-- R14, R70: every step, and every event of the host, keeps the stack entries at most 0xFFE and `pc` at most 0x10FE,
so that no write of `pc` ever wraps. -/
def Obligations.EveryEventKeepsControlInRange : Prop :=
  (∀ s t : State, ControlInRange s → step s = .next t → ControlInRange t) ∧
  (∀ (e : Event) (s t : State), ControlInRange s → handle e s = .next t → ControlInRange t)

/-- R18: no instruction changes DT but LD_DT_Vx, none changes ST but LD_ST_Vx; R21: none changes the key state. -/
def Obligations.TimersAndKeysHaveTheirOnlyWriters : Prop :=
  ∀ (i : Instr) (s t : State), exec i s = .next t →
    (t.DT ≠ s.DT → ∃ x, i = .ldDtVx x) ∧ (t.ST ≠ s.ST → ∃ x, i = .ldStVx x) ∧ t.key = s.key

/-- R20, R23: only CLS and DRW change the framebuffer or the redraw flag, and no instruction clears the flag; R16: only
CALL changes a stack entry, only CALL and RET change `sp`. -/
def Obligations.ScreenAndStackHaveTheirOnlyWriters : Prop :=
  ∀ (i : Instr) (s t : State), exec i s = .next t →
    (t.fb ≠ s.fb ∨ t.redraw ≠ s.redraw → (i = .cls ∨ ∃ x y n, i = .drw x y n) ∧ t.redraw = true) ∧
    (t.stack ≠ s.stack → ∃ nnn, i = .call nnn) ∧ (t.sp ≠ s.sp → i = .ret ∨ ∃ nnn, i = .call nnn)

/-- R15, R38: only LD_I, ADD_I, LD_F, register dump and register load change `I`; only LD_B and register dump change
memory. -/
def Obligations.IndexAndMemoryHaveTheirOnlyWriters : Prop :=
  ∀ (i : Instr) (s t : State), exec i s = .next t →
    (t.I ≠ s.I → writesIndex i = true) ∧ ((∃ a, t.mem.read a ≠ s.mem.read a) → writesMemory i = true)

/-- R11, R10: the flag register changes only under the seven instructions that write it as a side effect, or as the
ordinary destination 0xF, register load with X = 0xF included. -/
def Obligations.FlagRegisterHasItsOnlyWriters : Prop :=
  ∀ (i : Instr) (s t : State), exec i s = .next t → t.reg 0xF#4 ≠ s.reg 0xF#4 →
    writesFlag i = true ∨ destination i = some 0xF#4 ∨ i = .ldVxMem 0xF#4

/-- R132: faults are precise: a step that changes the latch changes nothing else. The spec's D16. -/
def Obligations.FaultsArePrecise : Prop :=
  ∀ s t : State, step s = .next t → t.fault ≠ s.fault →
    t.out = some ⟨.faulted, none⟩ ∧ t.pc = s.pc ∧ Frame [] [.fault] s t

/-- R131, R137: which step raises which fault, and under which condition. Codes 3 and 4 are the spec's D5, D6. -/
def Obligations.FaultCodesHaveTheirCauses : Prop :=
  ∀ s t : State, s.fault = .none → step s = .next t →
    (t.fault = .fetchRange ↔ s.pc.toNat > 0xFFE) ∧
    (t.fault = .stackOverflow ↔ s.pc.toNat ≤ 0xFFE ∧ s.sp.val = 16 ∧ ∃ nnn, fetchDecode s = .ok (.call nnn)) ∧
    (t.fault = .stackUnderflow ↔ s.pc.toNat ≤ 0xFFE ∧ s.sp.val = 0 ∧ fetchDecode s = .ok .ret) ∧
    (t.fault = .dataRange ↔ s.pc.toNat ≤ 0xFFE ∧
      ∃ i, fetchDecode s = .ok i ∧ ∃ k < dataBytes i, s.I.toNat + k > 0xFFF)

/-- R132, R138: once the latch is set it keeps its code through every event but RESET. The spec's D16. -/
def Obligations.LatchIsClearedByResetAlone : Prop :=
  ∀ (e : Event) (s t : State), s.fault ≠ .none → e ≠ .reset → handle e s = .next t → t.fault = s.fault

/-- R136, R64: a step that executes emits a diagnostic record exactly for an unrecognized word, and the record holds
the word and the address it was fetched from. -/
def Obligations.DiagnosticIsEmittedExactlyForUnrecognizedWords : Prop :=
  ∀ (s t : State) (d : Diag), s.fault = .none → s.pc.toNat ≤ 0xFFE → step s = .next t →
    ((∃ r, t.out = some ⟨r, some d⟩) ↔
      d = ⟨s.mem.read s.pc.toNat ++ s.mem.read (s.pc.toNat + 1), s.pc⟩ ∧
      ((∃ w, fetchDecode s = .error (.unrecognized w)) ∨ ∃ nnn, fetchDecode s = .ok (.sys nnn)))

/-- R66: a step is STALLED exactly for LD_Vx_K with no key pressed, and FAULTED exactly when the latch is set after
it. The spec's D18. -/
def Obligations.StepResultTellsStallAndFault : Prop :=
  ∀ s t : State, step s = .next t →
    ((∃ d, t.out = some ⟨.stalled, d⟩) ↔ s.fault = .none ∧ s.pc.toNat ≤ 0xFFE ∧
      (∃ x, fetchDecode s = .ok (.ldVxK x)) ∧ ∀ j : Fin 16, s.key[j] = false) ∧
    ((∃ d, t.out = some ⟨.faulted, d⟩) ↔ t.fault ≠ .none)

/-- R18, R23: no instruction reads ST or the redraw flag: change either before an instruction and nothing differs
after it but those two. It compares two runs. For RND it rests on the model's choice in log 2: both runs stand at the
same `draws`, so both draw the same `Config.rnd draws`, where R93 and D14 make each random byte a free input. Of the
hardware it therefore speaks, for RND, only where the two runs are given the same random byte. -/
def Obligations.SoundTimerAndRedrawAreNeverRead : Prop :=
  ∀ (i : Instr) (s t : State) (v : Byte) (b : Bool), exec i s = .next t →
    ∃ v' b', exec i { s with ST := v, redraw := b } = .next { t with ST := v', redraw := b' }
end

