-- ==== Sys2Proof/Laws/Decode.lean ====
section
/-! SUPPORT. What the fields of a word written out by nibbles are, and how a word decodes once its family is known. -/

namespace Sys2Proof

/-! ### Fields of the three word shapes: address, register and immediate, four nibbles -/

theorem fieldOp_address (a : Nibble) (nnn : Addr12) : fieldOp (a ++ nnn) = a := by
  unfold fieldOp
  exact BitVec.extractLsb'_append_eq_left

theorem fieldNNN_address (a : Nibble) (nnn : Addr12) : fieldNNN (a ++ nnn) = nnn := by
  unfold fieldNNN
  exact BitVec.extractLsb'_append_eq_right

theorem fieldNN_immediate (a x : Nibble) (nn : Byte) : fieldNN (a ++ x ++ nn) = nn := by
  unfold fieldNN
  exact BitVec.extractLsb'_append_eq_right

theorem fieldX_immediate (a x : Nibble) (nn : Byte) : fieldX (a ++ x ++ nn) = x := by
  unfold fieldX
  ext i hi
  rw [BitVec.getElem_extractLsb', BitVec.getLsbD_append, BitVec.getLsbD_append]
  have : i = 0 ∨ i = 1 ∨ i = 2 ∨ i = 3 := by omega
  rcases this with rfl | rfl | rfl | rfl <;> rfl

theorem fieldOp_immediate (a x : Nibble) (nn : Byte) : fieldOp (a ++ x ++ nn) = a := by
  unfold fieldOp
  ext i hi
  rw [BitVec.getElem_extractLsb', BitVec.getLsbD_append, BitVec.getLsbD_append]
  have : i = 0 ∨ i = 1 ∨ i = 2 ∨ i = 3 := by omega
  rcases this with rfl | rfl | rfl | rfl <;> rfl

theorem fieldN_nibbles (a x y n : Nibble) : fieldN (a ++ x ++ y ++ n) = n := by
  unfold fieldN
  exact BitVec.extractLsb'_append_eq_right

theorem fieldY_nibbles (a x y n : Nibble) : fieldY (a ++ x ++ y ++ n) = y := by
  unfold fieldY
  ext i hi
  rw [BitVec.getElem_extractLsb', BitVec.getLsbD_append, BitVec.getLsbD_append]
  have : i = 0 ∨ i = 1 ∨ i = 2 ∨ i = 3 := by omega
  rcases this with rfl | rfl | rfl | rfl <;> rfl

theorem fieldX_nibbles (a x y n : Nibble) : fieldX (a ++ x ++ y ++ n) = x := by
  unfold fieldX
  ext i hi
  rw [BitVec.getElem_extractLsb', BitVec.getLsbD_append, BitVec.getLsbD_append, BitVec.getLsbD_append]
  have : i = 0 ∨ i = 1 ∨ i = 2 ∨ i = 3 := by omega
  rcases this with rfl | rfl | rfl | rfl <;> rfl

theorem fieldOp_nibbles (a x y n : Nibble) : fieldOp (a ++ x ++ y ++ n) = a := by
  unfold fieldOp
  ext i hi
  rw [BitVec.getElem_extractLsb', BitVec.getLsbD_append, BitVec.getLsbD_append, BitVec.getLsbD_append]
  have : i = 0 ∨ i = 1 ∨ i = 2 ∨ i = 3 := by omega
  rcases this with rfl | rfl | rfl | rfl <;> rfl

/-! ### A word is its fields -/

theorem word_eq_address (w : Word) : fieldOp w ++ fieldNNN w = w := by
  unfold fieldOp fieldNNN
  ext i hi
  rw [BitVec.getElem_append]
  split <;> simp only [BitVec.getElem_extractLsb', BitVec.getLsbD_eq_getElem hi, Nat.zero_add]
  next h => rw [show 12 + (i - 12) = i by omega, BitVec.getLsbD_eq_getElem hi]

theorem word_eq_immediate (w : Word) : fieldOp w ++ fieldX w ++ fieldNN w = w := by
  unfold fieldOp fieldX fieldNN
  ext i hi
  rw [BitVec.getElem_append]
  split
  · simp only [BitVec.getElem_extractLsb', BitVec.getLsbD_eq_getElem hi, Nat.zero_add]
  · rw [BitVec.getElem_append]
    split <;> simp only [BitVec.getElem_extractLsb']
    · rw [show 8 + (i - 8) = i by omega, BitVec.getLsbD_eq_getElem hi]
    · rw [show 12 + (i - 8 - 4) = i by omega, BitVec.getLsbD_eq_getElem hi]

theorem word_eq_nibbles (w : Word) : fieldOp w ++ fieldX w ++ fieldY w ++ fieldN w = w := by
  unfold fieldOp fieldX fieldY fieldN
  ext i hi
  rw [BitVec.getElem_append]
  split
  · simp only [BitVec.getElem_extractLsb', BitVec.getLsbD_eq_getElem hi, Nat.zero_add]
  · rw [BitVec.getElem_append]
    split
    · rw [BitVec.getElem_extractLsb', show 4 + (i - 4) = i by omega, BitVec.getLsbD_eq_getElem hi]
    · rw [BitVec.getElem_append]
      split <;> simp only [BitVec.getElem_extractLsb']
      · rw [show 8 + (i - 4 - 4) = i by omega, BitVec.getLsbD_eq_getElem hi]
      · rw [show 12 + (i - 4 - 4 - 4) = i by omega, BitVec.getLsbD_eq_getElem hi]

/-- The low byte of four nibbles is the last two. -/
theorem fieldNN_eq (w : Word) : fieldNN w = fieldY w ++ fieldN w := by
  unfold fieldNN fieldY fieldN
  ext i hi
  rw [BitVec.getElem_append, BitVec.getElem_extractLsb']
  split
  · simp only [BitVec.getElem_extractLsb']
  · rw [BitVec.getElem_extractLsb', show 4 + (i - 4) = 0 + i by omega]

/-! ### Bytes in memory -/

theorem wordOfBytes_bytes (w : Word) : wordOfBytes (highByte w) (lowByte w) = w := by
  unfold wordOfBytes highByte lowByte
  ext i hi
  rw [BitVec.getElem_append]
  split <;> simp only [BitVec.getElem_extractLsb', Nat.zero_add]
  · rw [BitVec.getLsbD_eq_getElem hi]
  · rw [show 8 + (i - 8) = i by omega, BitVec.getLsbD_eq_getElem hi]

theorem decodeBytes_bytes (w : Word) : decodeBytes (highByte w) (lowByte w) = decode w := by
  rw [decodeBytes, wordOfBytes_bytes]

/-! ### Families -/

/-- Outside family 0 the two whole-word tests fail. -/
theorem decode_of_fieldOp_ne_zero {w : Word} (h : fieldOp w ≠ 0x0#4) : decode w = decodeFamily w := by
  have h1 : w ≠ 0x00E0#16 := by rintro rfl; exact h (by decide)
  have h2 : w ≠ 0x00EE#16 := by rintro rfl; exact h (by decide)
  rw [decode, if_neg h1, if_neg h2]

/-- A family of the map has one of sixteen numbers. -/
theorem fieldOp_cases (w : Word) : ∀ P : Nibble → Prop, P 0x0#4 → P 0x1#4 → P 0x2#4 → P 0x3#4 → P 0x4#4 → P 0x5#4 →
    P 0x6#4 → P 0x7#4 → P 0x8#4 → P 0x9#4 → P 0xA#4 → P 0xB#4 → P 0xC#4 → P 0xD#4 → P 0xE#4 → P 0xF#4 →
    P (fieldOp w) := by
  intro P h0 h1 h2 h3 h4 h5 h6 h7 h8 h9 hA hB hC hD hE hF
  generalize fieldOp w = a
  have := a.isLt
  have h : a = BitVec.ofNat 4 a.toNat := by simp
  rw [h]
  interval_cases a.toNat <;> assumption

end Sys2Proof
end

