-- ==== Sys2Proof/Laws/Memory.lean ====
section
/-! SUPPORT. The laws of main memory: reading after writing, the canonical form, and blocks of bytes. -/

namespace Sys2Proof.Machine

variable (m : Memory) (a c : Nat) (b : Byte)

@[simp] theorem Memory.read_nil : Memory.read [] a = resetByte a := rfl

theorem Memory.read_erase_same : (m.erase a).read a = resetByte a := by
  induction m with
  | nil => rfl
  | cons e m ih =>
    obtain ⟨k, v⟩ := e
    by_cases h : k = a
    · simpa [Memory.erase, h] using ih
    · have : ¬ a = k := fun e => h e.symm
      simpa [Memory.erase, h, Memory.read, this] using ih

theorem Memory.read_erase_ne (h : c ≠ a) : (m.erase a).read c = m.read c := by
  induction m with
  | nil => rfl
  | cons e m ih =>
    obtain ⟨k, v⟩ := e
    by_cases hk : k = a
    · have : ¬ c = k := fun e => h (e.trans hk)
      simpa [Memory.erase, hk, Memory.read, h] using ih
    · have ih' : Memory.read (List.filter (fun c => c.1 != a) m) c = Memory.read m c := ih
      simp [Memory.erase, hk, Memory.read, ih']

theorem Memory.read_insert_ne (h : c ≠ a) : (m.insert a b).read c = m.read c := by
  induction m with
  | nil => simp [Memory.insert, Memory.read, h]
  | cons e m ih =>
    obtain ⟨k, v⟩ := e
    by_cases hk : a < k
    · simp [Memory.insert, hk, Memory.read, h]
    · simp [Memory.insert, hk, Memory.read, ih]

theorem Memory.read_insert_same (h : ∀ e ∈ m, e.1 ≠ a) : (m.insert a b).read a = b := by
  induction m with
  | nil => simp [Memory.insert, Memory.read]
  | cons e m ih =>
    obtain ⟨k, v⟩ := e
    have hk : ¬ a = k := fun e => h (k, v) (by simp) e.symm
    have ih := ih (fun e he => h e (by simp [he]))
    by_cases hlt : a < k
    · simp [Memory.insert, hlt, Memory.read]
    · simp [Memory.insert, hlt, Memory.read, hk, ih]

/-- A byte written reads back (R39). -/
@[simp] theorem Memory.read_write_same : (m.write a b).read a = b := by
  unfold Memory.write
  split
  · next h => rw [Memory.read_erase_same, h]
  · exact Memory.read_insert_same _ _ _ (fun e he => by simpa [Memory.erase] using (List.mem_filter.mp he).2)

/-- A write leaves every other byte alone (R39). -/
theorem Memory.read_write_ne (h : c ≠ a) : (m.write a b).read c = m.read c := by
  unfold Memory.write
  split
  · exact Memory.read_erase_ne m a c h
  · rw [Memory.read_insert_ne _ _ _ _ h, Memory.read_erase_ne m a c h]

/-! ### The canonical form -/

theorem Memory.wfFrom_mono {lo lo' : Nat} (h : lo ≤ lo') (hm : Memory.wfFrom lo' m = true) :
    Memory.wfFrom lo m = true := by
  cases m with
  | nil => rfl
  | cons e m =>
    simp only [Memory.wfFrom, Bool.and_eq_true, decide_eq_true_eq] at hm ⊢
    exact ⟨⟨⟨h.trans hm.1.1.1, hm.1.1.2⟩, hm.1.2⟩, hm.2⟩

theorem Memory.wfFrom_erase (lo : Nat) (hm : Memory.wfFrom lo m = true) : Memory.wfFrom lo (m.erase a) = true := by
  induction m generalizing lo with
  | nil => rfl
  | cons e m ih =>
    obtain ⟨k, v⟩ := e
    simp only [Memory.wfFrom, Bool.and_eq_true, decide_eq_true_eq] at hm
    have ih : Memory.wfFrom (k + 1) (List.filter (fun c => c.1 != a) m) = true := ih (k + 1) hm.2
    by_cases hk : k = a
    · simpa [Memory.erase, hk] using Memory.wfFrom_mono _ (by omega) ih
    · simpa [Memory.erase, hk, Memory.wfFrom, ih] using hm.1

theorem Memory.wfFrom_insert (lo : Nat) (hlo : lo ≤ a) (ha : a < Config.memSize) (hb : b ≠ resetByte a)
    (hne : ∀ e ∈ m, e.1 ≠ a) (hm : Memory.wfFrom lo m = true) : Memory.wfFrom lo (m.insert a b) = true := by
  induction m generalizing lo with
  | nil => simpa [Memory.insert, Memory.wfFrom, hlo, hb] using ha
  | cons e m ih =>
    obtain ⟨k, v⟩ := e
    have hk : k ≠ a := hne (k, v) (by simp)
    simp only [Memory.wfFrom, Bool.and_eq_true, decide_eq_true_eq] at hm
    by_cases hlt : a < k
    · simp only [Memory.insert, hlt, if_true, Memory.wfFrom, Bool.and_eq_true, decide_eq_true_eq, bne_iff_ne]
      exact ⟨⟨⟨hlo, ha⟩, hb⟩, ⟨⟨hlt, hm.1.1.2⟩, by simpa using hm.1.2⟩, hm.2⟩
    · simp only [Memory.insert, hlt, if_false, Memory.wfFrom, Bool.and_eq_true, decide_eq_true_eq]
      exact ⟨hm.1, ih (k + 1) (by omega) (fun e he => hne e (by simp [he])) hm.2⟩

/-- A write inside memory keeps the canonical form. -/
theorem Memory.wf_write (ha : a < Config.memSize) (hm : m.wf = true) : (m.write a b).wf = true := by
  have he := Memory.wfFrom_erase m a 0 hm
  unfold Memory.write
  split
  · exact he
  · next hb =>
    exact Memory.wfFrom_insert _ a b 0 (Nat.zero_le _) ha hb
      (fun e h => by simpa [Memory.erase] using (List.mem_filter.mp h).2) he

/-- Memory that lists nothing, as after `RESET`, is canonical. -/
theorem Memory.wf_nil : Memory.wf [] = true := rfl

/-! ### Blocks of bytes -/

@[simp] theorem readBytes_length (n : Nat) : (readBytes m a n).length = n := by simp [readBytes]

theorem readBytes_getElem (n k : Nat) (h : k < (readBytes m a n).length) : (readBytes m a n)[k] = m.read (a + k) := by
  simp [readBytes]

theorem writeBytes_read_outside (bs : List Byte) (h : ∀ k < bs.length, c ≠ a + k) :
    (writeBytes m a bs).read c = m.read c := by
  induction bs generalizing m a with
  | nil => rfl
  | cons b bs ih =>
    rw [writeBytes, ih]
    · exact Memory.read_write_ne m a c b (by simpa using h 0 (by simp))
    · intro k hk
      have := h (k + 1) (by simpa using hk)
      omega

/-- The `k`-th byte of a block stored at `a` reads back at `a + k`. -/
theorem writeBytes_read_inside (bs : List Byte) (k : Nat) (h : k < bs.length) :
    (writeBytes m a bs).read (a + k) = bs[k] := by
  induction bs generalizing m a k with
  | nil => simp at h
  | cons b bs ih =>
    rw [writeBytes]
    cases k with
    | zero =>
      rw [writeBytes_read_outside _ _ _ _ (fun j _ => by omega)]
      simp
    | succ k =>
      have := ih (m.write a b) (a + 1) k (by simpa using h)
      rw [show a + (k + 1) = a + 1 + k by omega, this]
      rfl

/-- A block stored inside memory keeps the canonical form. -/
theorem wf_writeBytes (bs : List Byte) (ha : bs = [] ∨ a + bs.length ≤ Config.memSize) (hm : m.wf = true) :
    (writeBytes m a bs).wf = true := by
  induction bs generalizing m a with
  | nil => exact hm
  | cons b bs ih =>
    have ha : a + (bs.length + 1) ≤ Config.memSize := by simpa using ha
    exact ih (m.write a b) (a + 1) (.inr (by omega)) (Memory.wf_write m a b (by omega) hm)

/-- The range check of R37, in numbers. -/
theorem accessOk_iff (i : Word) (n : Nat) : accessOk i n = true ↔ n = 0 ∨ i.toNat + n ≤ Config.memSize := by
  simp [accessOk]

end Sys2Proof.Machine
end

