-- ==== Sys2Proof/Laws/State.lean ====
section
/-! SUPPORT. One lemma per field per update of the state, true by unfolding, so that no later proof unfolds a record
update. The values of the registers after an update are in Laws/Ops.lean, through `State.reg`. -/

namespace Sys2Proof.Machine

variable (s : State)

/-! ### setReg -/

@[simp] theorem State.setReg_V (x : RegIdx) (b : Byte) : (s.setReg x b).V = s.V.set x.toNat b x.isLt := rfl
@[simp] theorem State.setReg_pc (x : RegIdx) (b : Byte) : (s.setReg x b).pc = s.pc := rfl
@[simp] theorem State.setReg_I (x : RegIdx) (b : Byte) : (s.setReg x b).I = s.I := rfl
@[simp] theorem State.setReg_stack (x : RegIdx) (b : Byte) : (s.setReg x b).stack = s.stack := rfl
@[simp] theorem State.setReg_sp (x : RegIdx) (b : Byte) : (s.setReg x b).sp = s.sp := rfl
@[simp] theorem State.setReg_DT (x : RegIdx) (b : Byte) : (s.setReg x b).DT = s.DT := rfl
@[simp] theorem State.setReg_ST (x : RegIdx) (b : Byte) : (s.setReg x b).ST = s.ST := rfl
@[simp] theorem State.setReg_mem (x : RegIdx) (b : Byte) : (s.setReg x b).mem = s.mem := rfl
@[simp] theorem State.setReg_fb (x : RegIdx) (b : Byte) : (s.setReg x b).fb = s.fb := rfl
@[simp] theorem State.setReg_key (x : RegIdx) (b : Byte) : (s.setReg x b).key = s.key := rfl
@[simp] theorem State.setReg_redraw (x : RegIdx) (b : Byte) : (s.setReg x b).redraw = s.redraw := rfl
@[simp] theorem State.setReg_fault (x : RegIdx) (b : Byte) : (s.setReg x b).fault = s.fault := rfl
@[simp] theorem State.setReg_out (x : RegIdx) (b : Byte) : (s.setReg x b).out = s.out := rfl
@[simp] theorem State.setReg_draws (x : RegIdx) (b : Byte) : (s.setReg x b).draws = s.draws := rfl

/-! ### setFlag -/

@[simp] theorem State.setFlag_pc (c : Bool) : (s.setFlag c).pc = s.pc := rfl
@[simp] theorem State.setFlag_I (c : Bool) : (s.setFlag c).I = s.I := rfl
@[simp] theorem State.setFlag_stack (c : Bool) : (s.setFlag c).stack = s.stack := rfl
@[simp] theorem State.setFlag_sp (c : Bool) : (s.setFlag c).sp = s.sp := rfl
@[simp] theorem State.setFlag_DT (c : Bool) : (s.setFlag c).DT = s.DT := rfl
@[simp] theorem State.setFlag_ST (c : Bool) : (s.setFlag c).ST = s.ST := rfl
@[simp] theorem State.setFlag_mem (c : Bool) : (s.setFlag c).mem = s.mem := rfl
@[simp] theorem State.setFlag_fb (c : Bool) : (s.setFlag c).fb = s.fb := rfl
@[simp] theorem State.setFlag_key (c : Bool) : (s.setFlag c).key = s.key := rfl
@[simp] theorem State.setFlag_redraw (c : Bool) : (s.setFlag c).redraw = s.redraw := rfl
@[simp] theorem State.setFlag_fault (c : Bool) : (s.setFlag c).fault = s.fault := rfl
@[simp] theorem State.setFlag_out (c : Bool) : (s.setFlag c).out = s.out := rfl
@[simp] theorem State.setFlag_draws (c : Bool) : (s.setFlag c).draws = s.draws := rfl

/-! ### setRegsUpTo -/

@[simp] theorem State.setRegsUpTo_pc (x : RegIdx) (f : Nat → Byte) : (s.setRegsUpTo x f).pc = s.pc := rfl
@[simp] theorem State.setRegsUpTo_I (x : RegIdx) (f : Nat → Byte) : (s.setRegsUpTo x f).I = s.I := rfl
@[simp] theorem State.setRegsUpTo_stack (x : RegIdx) (f : Nat → Byte) : (s.setRegsUpTo x f).stack = s.stack := rfl
@[simp] theorem State.setRegsUpTo_sp (x : RegIdx) (f : Nat → Byte) : (s.setRegsUpTo x f).sp = s.sp := rfl
@[simp] theorem State.setRegsUpTo_DT (x : RegIdx) (f : Nat → Byte) : (s.setRegsUpTo x f).DT = s.DT := rfl
@[simp] theorem State.setRegsUpTo_ST (x : RegIdx) (f : Nat → Byte) : (s.setRegsUpTo x f).ST = s.ST := rfl
@[simp] theorem State.setRegsUpTo_mem (x : RegIdx) (f : Nat → Byte) : (s.setRegsUpTo x f).mem = s.mem := rfl
@[simp] theorem State.setRegsUpTo_fb (x : RegIdx) (f : Nat → Byte) : (s.setRegsUpTo x f).fb = s.fb := rfl
@[simp] theorem State.setRegsUpTo_key (x : RegIdx) (f : Nat → Byte) : (s.setRegsUpTo x f).key = s.key := rfl
@[simp] theorem State.setRegsUpTo_redraw (x : RegIdx) (f : Nat → Byte) : (s.setRegsUpTo x f).redraw = s.redraw := rfl
@[simp] theorem State.setRegsUpTo_fault (x : RegIdx) (f : Nat → Byte) : (s.setRegsUpTo x f).fault = s.fault := rfl
@[simp] theorem State.setRegsUpTo_out (x : RegIdx) (f : Nat → Byte) : (s.setRegsUpTo x f).out = s.out := rfl
@[simp] theorem State.setRegsUpTo_draws (x : RegIdx) (f : Nat → Byte) : (s.setRegsUpTo x f).draws = s.draws := rfl

/-! ### setIndex -/

@[simp] theorem State.setIndex_V (a : Word) : (s.setIndex a).V = s.V := rfl
@[simp] theorem State.setIndex_pc (a : Word) : (s.setIndex a).pc = s.pc := rfl
@[simp] theorem State.setIndex_I (a : Word) : (s.setIndex a).I = a := rfl
@[simp] theorem State.setIndex_stack (a : Word) : (s.setIndex a).stack = s.stack := rfl
@[simp] theorem State.setIndex_sp (a : Word) : (s.setIndex a).sp = s.sp := rfl
@[simp] theorem State.setIndex_DT (a : Word) : (s.setIndex a).DT = s.DT := rfl
@[simp] theorem State.setIndex_ST (a : Word) : (s.setIndex a).ST = s.ST := rfl
@[simp] theorem State.setIndex_mem (a : Word) : (s.setIndex a).mem = s.mem := rfl
@[simp] theorem State.setIndex_fb (a : Word) : (s.setIndex a).fb = s.fb := rfl
@[simp] theorem State.setIndex_key (a : Word) : (s.setIndex a).key = s.key := rfl
@[simp] theorem State.setIndex_redraw (a : Word) : (s.setIndex a).redraw = s.redraw := rfl
@[simp] theorem State.setIndex_fault (a : Word) : (s.setIndex a).fault = s.fault := rfl
@[simp] theorem State.setIndex_out (a : Word) : (s.setIndex a).out = s.out := rfl
@[simp] theorem State.setIndex_draws (a : Word) : (s.setIndex a).draws = s.draws := rfl

/-! ### setMemory -/

@[simp] theorem State.setMemory_V (m : Memory) : (s.setMemory m).V = s.V := rfl
@[simp] theorem State.setMemory_pc (m : Memory) : (s.setMemory m).pc = s.pc := rfl
@[simp] theorem State.setMemory_I (m : Memory) : (s.setMemory m).I = s.I := rfl
@[simp] theorem State.setMemory_stack (m : Memory) : (s.setMemory m).stack = s.stack := rfl
@[simp] theorem State.setMemory_sp (m : Memory) : (s.setMemory m).sp = s.sp := rfl
@[simp] theorem State.setMemory_DT (m : Memory) : (s.setMemory m).DT = s.DT := rfl
@[simp] theorem State.setMemory_ST (m : Memory) : (s.setMemory m).ST = s.ST := rfl
@[simp] theorem State.setMemory_mem (m : Memory) : (s.setMemory m).mem = m := rfl
@[simp] theorem State.setMemory_fb (m : Memory) : (s.setMemory m).fb = s.fb := rfl
@[simp] theorem State.setMemory_key (m : Memory) : (s.setMemory m).key = s.key := rfl
@[simp] theorem State.setMemory_redraw (m : Memory) : (s.setMemory m).redraw = s.redraw := rfl
@[simp] theorem State.setMemory_fault (m : Memory) : (s.setMemory m).fault = s.fault := rfl
@[simp] theorem State.setMemory_out (m : Memory) : (s.setMemory m).out = s.out := rfl
@[simp] theorem State.setMemory_draws (m : Memory) : (s.setMemory m).draws = s.draws := rfl

/-! ### setDelay -/

@[simp] theorem State.setDelay_V (b : Byte) : (s.setDelay b).V = s.V := rfl
@[simp] theorem State.setDelay_pc (b : Byte) : (s.setDelay b).pc = s.pc := rfl
@[simp] theorem State.setDelay_I (b : Byte) : (s.setDelay b).I = s.I := rfl
@[simp] theorem State.setDelay_stack (b : Byte) : (s.setDelay b).stack = s.stack := rfl
@[simp] theorem State.setDelay_sp (b : Byte) : (s.setDelay b).sp = s.sp := rfl
@[simp] theorem State.setDelay_DT (b : Byte) : (s.setDelay b).DT = b := rfl
@[simp] theorem State.setDelay_ST (b : Byte) : (s.setDelay b).ST = s.ST := rfl
@[simp] theorem State.setDelay_mem (b : Byte) : (s.setDelay b).mem = s.mem := rfl
@[simp] theorem State.setDelay_fb (b : Byte) : (s.setDelay b).fb = s.fb := rfl
@[simp] theorem State.setDelay_key (b : Byte) : (s.setDelay b).key = s.key := rfl
@[simp] theorem State.setDelay_redraw (b : Byte) : (s.setDelay b).redraw = s.redraw := rfl
@[simp] theorem State.setDelay_fault (b : Byte) : (s.setDelay b).fault = s.fault := rfl
@[simp] theorem State.setDelay_out (b : Byte) : (s.setDelay b).out = s.out := rfl
@[simp] theorem State.setDelay_draws (b : Byte) : (s.setDelay b).draws = s.draws := rfl

/-! ### setSound -/

@[simp] theorem State.setSound_V (b : Byte) : (s.setSound b).V = s.V := rfl
@[simp] theorem State.setSound_pc (b : Byte) : (s.setSound b).pc = s.pc := rfl
@[simp] theorem State.setSound_I (b : Byte) : (s.setSound b).I = s.I := rfl
@[simp] theorem State.setSound_stack (b : Byte) : (s.setSound b).stack = s.stack := rfl
@[simp] theorem State.setSound_sp (b : Byte) : (s.setSound b).sp = s.sp := rfl
@[simp] theorem State.setSound_DT (b : Byte) : (s.setSound b).DT = s.DT := rfl
@[simp] theorem State.setSound_ST (b : Byte) : (s.setSound b).ST = b := rfl
@[simp] theorem State.setSound_mem (b : Byte) : (s.setSound b).mem = s.mem := rfl
@[simp] theorem State.setSound_fb (b : Byte) : (s.setSound b).fb = s.fb := rfl
@[simp] theorem State.setSound_key (b : Byte) : (s.setSound b).key = s.key := rfl
@[simp] theorem State.setSound_redraw (b : Byte) : (s.setSound b).redraw = s.redraw := rfl
@[simp] theorem State.setSound_fault (b : Byte) : (s.setSound b).fault = s.fault := rfl
@[simp] theorem State.setSound_out (b : Byte) : (s.setSound b).out = s.out := rfl
@[simp] theorem State.setSound_draws (b : Byte) : (s.setSound b).draws = s.draws := rfl

/-! ### setScreen -/

@[simp] theorem State.setScreen_V (fb : Framebuffer) : (s.setScreen fb).V = s.V := rfl
@[simp] theorem State.setScreen_pc (fb : Framebuffer) : (s.setScreen fb).pc = s.pc := rfl
@[simp] theorem State.setScreen_I (fb : Framebuffer) : (s.setScreen fb).I = s.I := rfl
@[simp] theorem State.setScreen_stack (fb : Framebuffer) : (s.setScreen fb).stack = s.stack := rfl
@[simp] theorem State.setScreen_sp (fb : Framebuffer) : (s.setScreen fb).sp = s.sp := rfl
@[simp] theorem State.setScreen_DT (fb : Framebuffer) : (s.setScreen fb).DT = s.DT := rfl
@[simp] theorem State.setScreen_ST (fb : Framebuffer) : (s.setScreen fb).ST = s.ST := rfl
@[simp] theorem State.setScreen_mem (fb : Framebuffer) : (s.setScreen fb).mem = s.mem := rfl
@[simp] theorem State.setScreen_fb (fb : Framebuffer) : (s.setScreen fb).fb = fb := rfl
@[simp] theorem State.setScreen_key (fb : Framebuffer) : (s.setScreen fb).key = s.key := rfl
@[simp] theorem State.setScreen_redraw (fb : Framebuffer) : (s.setScreen fb).redraw = true := rfl
@[simp] theorem State.setScreen_fault (fb : Framebuffer) : (s.setScreen fb).fault = s.fault := rfl
@[simp] theorem State.setScreen_out (fb : Framebuffer) : (s.setScreen fb).out = s.out := rfl
@[simp] theorem State.setScreen_draws (fb : Framebuffer) : (s.setScreen fb).draws = s.draws := rfl

/-! ### countDraw -/

@[simp] theorem State.countDraw_V : (s.countDraw).V = s.V := rfl
@[simp] theorem State.countDraw_pc : (s.countDraw).pc = s.pc := rfl
@[simp] theorem State.countDraw_I : (s.countDraw).I = s.I := rfl
@[simp] theorem State.countDraw_stack : (s.countDraw).stack = s.stack := rfl
@[simp] theorem State.countDraw_sp : (s.countDraw).sp = s.sp := rfl
@[simp] theorem State.countDraw_DT : (s.countDraw).DT = s.DT := rfl
@[simp] theorem State.countDraw_ST : (s.countDraw).ST = s.ST := rfl
@[simp] theorem State.countDraw_mem : (s.countDraw).mem = s.mem := rfl
@[simp] theorem State.countDraw_fb : (s.countDraw).fb = s.fb := rfl
@[simp] theorem State.countDraw_key : (s.countDraw).key = s.key := rfl
@[simp] theorem State.countDraw_redraw : (s.countDraw).redraw = s.redraw := rfl
@[simp] theorem State.countDraw_fault : (s.countDraw).fault = s.fault := rfl
@[simp] theorem State.countDraw_out : (s.countDraw).out = s.out := rfl
@[simp] theorem State.countDraw_draws : (s.countDraw).draws = s.draws + 1 := rfl

/-! ### finishAt -/

@[simp] theorem State.finishAt_V (a : Word) : (s.finishAt a).V = s.V := rfl
@[simp] theorem State.finishAt_pc (a : Word) : (s.finishAt a).pc = a := rfl
@[simp] theorem State.finishAt_I (a : Word) : (s.finishAt a).I = s.I := rfl
@[simp] theorem State.finishAt_stack (a : Word) : (s.finishAt a).stack = s.stack := rfl
@[simp] theorem State.finishAt_sp (a : Word) : (s.finishAt a).sp = s.sp := rfl
@[simp] theorem State.finishAt_DT (a : Word) : (s.finishAt a).DT = s.DT := rfl
@[simp] theorem State.finishAt_ST (a : Word) : (s.finishAt a).ST = s.ST := rfl
@[simp] theorem State.finishAt_mem (a : Word) : (s.finishAt a).mem = s.mem := rfl
@[simp] theorem State.finishAt_fb (a : Word) : (s.finishAt a).fb = s.fb := rfl
@[simp] theorem State.finishAt_key (a : Word) : (s.finishAt a).key = s.key := rfl
@[simp] theorem State.finishAt_redraw (a : Word) : (s.finishAt a).redraw = s.redraw := rfl
@[simp] theorem State.finishAt_fault (a : Word) : (s.finishAt a).fault = s.fault := rfl
@[simp] theorem State.finishAt_out (a : Word) : (s.finishAt a).out = some ⟨.advanced, none⟩ := rfl
@[simp] theorem State.finishAt_draws (a : Word) : (s.finishAt a).draws = s.draws := rfl

/-! ### advance -/

@[simp] theorem State.advance_V : (s.advance).V = s.V := rfl
@[simp] theorem State.advance_pc : (s.advance).pc = s.pc + 2#16 := rfl
@[simp] theorem State.advance_I : (s.advance).I = s.I := rfl
@[simp] theorem State.advance_stack : (s.advance).stack = s.stack := rfl
@[simp] theorem State.advance_sp : (s.advance).sp = s.sp := rfl
@[simp] theorem State.advance_DT : (s.advance).DT = s.DT := rfl
@[simp] theorem State.advance_ST : (s.advance).ST = s.ST := rfl
@[simp] theorem State.advance_mem : (s.advance).mem = s.mem := rfl
@[simp] theorem State.advance_fb : (s.advance).fb = s.fb := rfl
@[simp] theorem State.advance_key : (s.advance).key = s.key := rfl
@[simp] theorem State.advance_redraw : (s.advance).redraw = s.redraw := rfl
@[simp] theorem State.advance_fault : (s.advance).fault = s.fault := rfl
@[simp] theorem State.advance_out : (s.advance).out = some ⟨.advanced, none⟩ := rfl
@[simp] theorem State.advance_draws : (s.advance).draws = s.draws := rfl

/-! ### skipIf -/

@[simp] theorem State.skipIf_V (c : Bool) : (s.skipIf c).V = s.V := rfl
@[simp] theorem State.skipIf_pc (c : Bool) : (s.skipIf c).pc = if c then s.pc + 4#16 else s.pc + 2#16 := rfl
@[simp] theorem State.skipIf_I (c : Bool) : (s.skipIf c).I = s.I := rfl
@[simp] theorem State.skipIf_stack (c : Bool) : (s.skipIf c).stack = s.stack := rfl
@[simp] theorem State.skipIf_sp (c : Bool) : (s.skipIf c).sp = s.sp := rfl
@[simp] theorem State.skipIf_DT (c : Bool) : (s.skipIf c).DT = s.DT := rfl
@[simp] theorem State.skipIf_ST (c : Bool) : (s.skipIf c).ST = s.ST := rfl
@[simp] theorem State.skipIf_mem (c : Bool) : (s.skipIf c).mem = s.mem := rfl
@[simp] theorem State.skipIf_fb (c : Bool) : (s.skipIf c).fb = s.fb := rfl
@[simp] theorem State.skipIf_key (c : Bool) : (s.skipIf c).key = s.key := rfl
@[simp] theorem State.skipIf_redraw (c : Bool) : (s.skipIf c).redraw = s.redraw := rfl
@[simp] theorem State.skipIf_fault (c : Bool) : (s.skipIf c).fault = s.fault := rfl
@[simp] theorem State.skipIf_out (c : Bool) : (s.skipIf c).out = some ⟨.advanced, none⟩ := rfl
@[simp] theorem State.skipIf_draws (c : Bool) : (s.skipIf c).draws = s.draws := rfl

/-! ### stall -/

@[simp] theorem State.stall_V : (s.stall).V = s.V := rfl
@[simp] theorem State.stall_pc : (s.stall).pc = s.pc := rfl
@[simp] theorem State.stall_I : (s.stall).I = s.I := rfl
@[simp] theorem State.stall_stack : (s.stall).stack = s.stack := rfl
@[simp] theorem State.stall_sp : (s.stall).sp = s.sp := rfl
@[simp] theorem State.stall_DT : (s.stall).DT = s.DT := rfl
@[simp] theorem State.stall_ST : (s.stall).ST = s.ST := rfl
@[simp] theorem State.stall_mem : (s.stall).mem = s.mem := rfl
@[simp] theorem State.stall_fb : (s.stall).fb = s.fb := rfl
@[simp] theorem State.stall_key : (s.stall).key = s.key := rfl
@[simp] theorem State.stall_redraw : (s.stall).redraw = s.redraw := rfl
@[simp] theorem State.stall_fault : (s.stall).fault = s.fault := rfl
@[simp] theorem State.stall_out : (s.stall).out = some ⟨.stalled, none⟩ := rfl
@[simp] theorem State.stall_draws : (s.stall).draws = s.draws := rfl

/-! ### unrecognized -/

@[simp] theorem State.unrecognized_V (w : Word) : (s.unrecognized w).V = s.V := rfl
@[simp] theorem State.unrecognized_pc (w : Word) : (s.unrecognized w).pc = s.pc + 2#16 := rfl
@[simp] theorem State.unrecognized_I (w : Word) : (s.unrecognized w).I = s.I := rfl
@[simp] theorem State.unrecognized_stack (w : Word) : (s.unrecognized w).stack = s.stack := rfl
@[simp] theorem State.unrecognized_sp (w : Word) : (s.unrecognized w).sp = s.sp := rfl
@[simp] theorem State.unrecognized_DT (w : Word) : (s.unrecognized w).DT = s.DT := rfl
@[simp] theorem State.unrecognized_ST (w : Word) : (s.unrecognized w).ST = s.ST := rfl
@[simp] theorem State.unrecognized_mem (w : Word) : (s.unrecognized w).mem = s.mem := rfl
@[simp] theorem State.unrecognized_fb (w : Word) : (s.unrecognized w).fb = s.fb := rfl
@[simp] theorem State.unrecognized_key (w : Word) : (s.unrecognized w).key = s.key := rfl
@[simp] theorem State.unrecognized_redraw (w : Word) : (s.unrecognized w).redraw = s.redraw := rfl
@[simp] theorem State.unrecognized_fault (w : Word) : (s.unrecognized w).fault = s.fault := rfl
@[simp] theorem State.unrecognized_out (w : Word) : (s.unrecognized w).out = some ⟨.advanced, some ⟨w, s.pc⟩⟩ := rfl
@[simp] theorem State.unrecognized_draws (w : Word) : (s.unrecognized w).draws = s.draws := rfl

/-! ### raise -/

@[simp] theorem State.raise_V (code : FaultCode) : (s.raise code).V = s.V := rfl
@[simp] theorem State.raise_pc (code : FaultCode) : (s.raise code).pc = s.pc := rfl
@[simp] theorem State.raise_I (code : FaultCode) : (s.raise code).I = s.I := rfl
@[simp] theorem State.raise_stack (code : FaultCode) : (s.raise code).stack = s.stack := rfl
@[simp] theorem State.raise_sp (code : FaultCode) : (s.raise code).sp = s.sp := rfl
@[simp] theorem State.raise_DT (code : FaultCode) : (s.raise code).DT = s.DT := rfl
@[simp] theorem State.raise_ST (code : FaultCode) : (s.raise code).ST = s.ST := rfl
@[simp] theorem State.raise_mem (code : FaultCode) : (s.raise code).mem = s.mem := rfl
@[simp] theorem State.raise_fb (code : FaultCode) : (s.raise code).fb = s.fb := rfl
@[simp] theorem State.raise_key (code : FaultCode) : (s.raise code).key = s.key := rfl
@[simp] theorem State.raise_redraw (code : FaultCode) : (s.raise code).redraw = s.redraw := rfl
@[simp] theorem State.raise_fault (code : FaultCode) : (s.raise code).fault = code := rfl
@[simp] theorem State.raise_out (code : FaultCode) : (s.raise code).out = some ⟨.faulted, none⟩ := rfl
@[simp] theorem State.raise_draws (code : FaultCode) : (s.raise code).draws = s.draws := rfl

/-! ### standStill -/

@[simp] theorem State.standStill_V : (s.standStill).V = s.V := rfl
@[simp] theorem State.standStill_pc : (s.standStill).pc = s.pc := rfl
@[simp] theorem State.standStill_I : (s.standStill).I = s.I := rfl
@[simp] theorem State.standStill_stack : (s.standStill).stack = s.stack := rfl
@[simp] theorem State.standStill_sp : (s.standStill).sp = s.sp := rfl
@[simp] theorem State.standStill_DT : (s.standStill).DT = s.DT := rfl
@[simp] theorem State.standStill_ST : (s.standStill).ST = s.ST := rfl
@[simp] theorem State.standStill_mem : (s.standStill).mem = s.mem := rfl
@[simp] theorem State.standStill_fb : (s.standStill).fb = s.fb := rfl
@[simp] theorem State.standStill_key : (s.standStill).key = s.key := rfl
@[simp] theorem State.standStill_redraw : (s.standStill).redraw = s.redraw := rfl
@[simp] theorem State.standStill_fault : (s.standStill).fault = s.fault := rfl
@[simp] theorem State.standStill_out : (s.standStill).out = some ⟨.faulted, none⟩ := rfl
@[simp] theorem State.standStill_draws : (s.standStill).draws = s.draws := rfl

/-! ### writeResult -/

@[simp] theorem State.writeResult_pc (x : RegIdx) (v : Byte) : (s.writeResult x v).pc = s.pc + 2#16 := rfl
@[simp] theorem State.writeResult_I (x : RegIdx) (v : Byte) : (s.writeResult x v).I = s.I := rfl
@[simp] theorem State.writeResult_stack (x : RegIdx) (v : Byte) : (s.writeResult x v).stack = s.stack := rfl
@[simp] theorem State.writeResult_sp (x : RegIdx) (v : Byte) : (s.writeResult x v).sp = s.sp := rfl
@[simp] theorem State.writeResult_DT (x : RegIdx) (v : Byte) : (s.writeResult x v).DT = s.DT := rfl
@[simp] theorem State.writeResult_ST (x : RegIdx) (v : Byte) : (s.writeResult x v).ST = s.ST := rfl
@[simp] theorem State.writeResult_mem (x : RegIdx) (v : Byte) : (s.writeResult x v).mem = s.mem := rfl
@[simp] theorem State.writeResult_fb (x : RegIdx) (v : Byte) : (s.writeResult x v).fb = s.fb := rfl
@[simp] theorem State.writeResult_key (x : RegIdx) (v : Byte) : (s.writeResult x v).key = s.key := rfl
@[simp] theorem State.writeResult_redraw (x : RegIdx) (v : Byte) : (s.writeResult x v).redraw = s.redraw := rfl
@[simp] theorem State.writeResult_fault (x : RegIdx) (v : Byte) : (s.writeResult x v).fault = s.fault := rfl
@[simp] theorem State.writeResult_out (x : RegIdx) (v : Byte) : (s.writeResult x v).out = some ⟨.advanced, none⟩ := rfl
@[simp] theorem State.writeResult_draws (x : RegIdx) (v : Byte) : (s.writeResult x v).draws = s.draws := rfl

/-! ### writeResultAndFlag -/

@[simp] theorem State.writeResultAndFlag_pc (x : RegIdx) (v : Byte) (c : Bool) : (s.writeResultAndFlag x v c).pc = s.pc + 2#16 := rfl
@[simp] theorem State.writeResultAndFlag_I (x : RegIdx) (v : Byte) (c : Bool) : (s.writeResultAndFlag x v c).I = s.I := rfl
@[simp] theorem State.writeResultAndFlag_stack (x : RegIdx) (v : Byte) (c : Bool) : (s.writeResultAndFlag x v c).stack = s.stack := rfl
@[simp] theorem State.writeResultAndFlag_sp (x : RegIdx) (v : Byte) (c : Bool) : (s.writeResultAndFlag x v c).sp = s.sp := rfl
@[simp] theorem State.writeResultAndFlag_DT (x : RegIdx) (v : Byte) (c : Bool) : (s.writeResultAndFlag x v c).DT = s.DT := rfl
@[simp] theorem State.writeResultAndFlag_ST (x : RegIdx) (v : Byte) (c : Bool) : (s.writeResultAndFlag x v c).ST = s.ST := rfl
@[simp] theorem State.writeResultAndFlag_mem (x : RegIdx) (v : Byte) (c : Bool) : (s.writeResultAndFlag x v c).mem = s.mem := rfl
@[simp] theorem State.writeResultAndFlag_fb (x : RegIdx) (v : Byte) (c : Bool) : (s.writeResultAndFlag x v c).fb = s.fb := rfl
@[simp] theorem State.writeResultAndFlag_key (x : RegIdx) (v : Byte) (c : Bool) : (s.writeResultAndFlag x v c).key = s.key := rfl
@[simp] theorem State.writeResultAndFlag_redraw (x : RegIdx) (v : Byte) (c : Bool) : (s.writeResultAndFlag x v c).redraw = s.redraw := rfl
@[simp] theorem State.writeResultAndFlag_fault (x : RegIdx) (v : Byte) (c : Bool) : (s.writeResultAndFlag x v c).fault = s.fault := rfl
@[simp] theorem State.writeResultAndFlag_out (x : RegIdx) (v : Byte) (c : Bool) : (s.writeResultAndFlag x v c).out = some ⟨.advanced, none⟩ := rfl
@[simp] theorem State.writeResultAndFlag_draws (x : RegIdx) (v : Byte) (c : Bool) : (s.writeResultAndFlag x v c).draws = s.draws := rfl

end Sys2Proof.Machine
end

