-- ==== Sys2Proof/Laws/Ops.lean ====
section
/-! SUPPORT. What the operations on registers, framebuffer, stack and keys do, one lemma per operation; provers cite
these and do not unfold the operations. -/

namespace Sys2Proof.Machine

variable (s : State)

/-! ### Registers -/

@[simp] theorem State.reg_setReg_same (x : RegIdx) (b : Byte) : (s.setReg x b).reg x = b := by
  simp [State.reg]

theorem State.reg_setReg_ne {x r : RegIdx} (b : Byte) (h : r ≠ x) : (s.setReg x b).reg r = s.reg r := by
  have : x.toNat ≠ r.toNat := fun e => h (BitVec.eq_of_toNat_eq e).symm
  simp [State.reg, Vector.getElem_set_ne, this]

theorem State.reg_setReg (x r : RegIdx) (b : Byte) : (s.setReg x b).reg r = if r = x then b else s.reg r := by
  split
  · next h => rw [h, State.reg_setReg_same]
  · next h => exact State.reg_setReg_ne s b h

theorem State.reg_setFlag (c : Bool) (r : RegIdx) :
    (s.setFlag c).reg r = if r = 0xF#4 then (if c then 1#8 else 0#8) else s.reg r := State.reg_setReg s _ _ _

theorem State.reg_setRegsUpTo (x r : RegIdx) (f : Nat → Byte) :
    (s.setRegsUpTo x f).reg r = if r.toNat ≤ x.toNat then f r.toNat else s.reg r := by
  simp [State.reg, State.setRegsUpTo]

@[simp] theorem State.regsUpTo_length (x : RegIdx) : (s.regsUpTo x).length = x.toNat + 1 := by
  simp [State.regsUpTo]

theorem State.regsUpTo_getElem (x : RegIdx) (k : Nat) (h : k < (s.regsUpTo x).length) :
    (s.regsUpTo x)[k] = s.reg (BitVec.ofNat 4 k) := by
  simp [State.regsUpTo]

/-! ### Registers through the ways an instruction ends, and through updates of other fields -/

theorem State.reg_eq_of_V_eq {s t : State} (h : t.V = s.V) (r : RegIdx) : t.reg r = s.reg r := by
  simp only [State.reg, h]

@[simp] theorem State.reg_setIndex (a : Word) (r : RegIdx) : (s.setIndex a).reg r = s.reg r := rfl
@[simp] theorem State.reg_setMemory (m : Memory) (r : RegIdx) : (s.setMemory m).reg r = s.reg r := rfl
@[simp] theorem State.reg_setDelay (b : Byte) (r : RegIdx) : (s.setDelay b).reg r = s.reg r := rfl
@[simp] theorem State.reg_setSound (b : Byte) (r : RegIdx) : (s.setSound b).reg r = s.reg r := rfl
@[simp] theorem State.reg_setScreen (fb : Framebuffer) (r : RegIdx) : (s.setScreen fb).reg r = s.reg r := rfl
@[simp] theorem State.reg_countDraw (r : RegIdx) : (s.countDraw).reg r = s.reg r := rfl
@[simp] theorem State.reg_finishAt (a : Word) (r : RegIdx) : (s.finishAt a).reg r = s.reg r := rfl
@[simp] theorem State.reg_advance (r : RegIdx) : s.advance.reg r = s.reg r := rfl
@[simp] theorem State.reg_skipIf (c : Bool) (r : RegIdx) : (s.skipIf c).reg r = s.reg r := rfl
@[simp] theorem State.reg_stall (r : RegIdx) : s.stall.reg r = s.reg r := rfl
@[simp] theorem State.reg_unrecognized (w : Word) (r : RegIdx) : (s.unrecognized w).reg r = s.reg r := rfl
@[simp] theorem State.reg_raise (code : FaultCode) (r : RegIdx) : (s.raise code).reg r = s.reg r := rfl
@[simp] theorem State.reg_standStill (r : RegIdx) : s.standStill.reg r = s.reg r := rfl

/-- `V[X]` takes the result, every other register keeps its value (R80 to R85). -/
theorem State.reg_writeResult (x r : RegIdx) (v : Byte) :
    (s.writeResult x v).reg r = if r = x then v else s.reg r := State.reg_setReg s x r v

/-- The flag survives in `V[0xF]`, `V[X]` takes the result, every other register keeps its value (R12, R86). -/
theorem State.reg_writeResultAndFlag (x r : RegIdx) (v : Byte) (c : Bool) :
    (s.writeResultAndFlag x v c).reg r =
      if r = 0xF#4 then (if c then 1#8 else 0#8) else if r = x then v else s.reg r := by
  rw [State.writeResultAndFlag, State.reg_advance, State.reg_setFlag, State.reg_setReg]

/-! ### Framebuffer -/

@[simp] theorem fbCell_clear (j : Nat) : fbCell fbClear j = false := by
  unfold fbCell fbClear
  by_cases h : j / 64 < 32 <;> simp [h]

theorem fbCell_flip (fb : Framebuffer) (j k : Nat) (hj : j < 2048) :
    fbCell (fbFlip fb j) k = if k = j then !fbCell fb k else fbCell fb k := by
  have hr : j / 64 < 32 := by omega
  have hb : j % 64 < 64 := Nat.mod_lt _ (by omega)
  unfold fbCell fbFlip
  rw [Vector.getElem?_setIfInBounds]
  by_cases hkj : k = j
  · subst hkj
    simp [hr, hb]
  · by_cases hrow : j / 64 = k / 64
    · have hcol : ¬ j % 64 = k % 64 := by omega
      rw [if_pos hrow, if_pos hr, if_neg hkj]
      simp [BitVec.getLsbD_xor, BitVec.getLsbD_twoPow, hcol, hrow]
    · rw [if_neg hrow, if_neg hkj]

/-! ### Stack -/

theorem State.push_eq_none_iff (a : Word) : s.push a = none ↔ s.sp.val = 16 := by
  unfold State.push
  split <;> simp <;> omega

/-- What a push that succeeds did. -/
theorem State.push_eq_some {a : Word} {t : State} (h : s.push a = some t) :
    ∃ d : Fin 16, s.sp.val = d.val ∧ t.sp.val = d.val + 1 ∧ t.stack = s.stack.set d.val a ∧
      t = { s with stack := t.stack, sp := t.sp } := by
  unfold State.push at h
  split at h
  · next hd => cases h; exact ⟨⟨s.sp.val, hd⟩, rfl, rfl, rfl, rfl⟩
  · cases h

theorem State.pop_eq_none_iff : s.pop = none ↔ s.sp.val = 0 := by
  unfold State.pop
  split <;> simp_all

/-- What a pop that succeeds did. -/
theorem State.pop_eq_some {a : Word} {t : State} (h : s.pop = some (a, t)) :
    ∃ d : Fin 16, s.sp.val = d.val + 1 ∧ t.sp.val = d.val ∧ a = s.stack[d] ∧ t = { s with sp := t.sp } := by
  unfold State.pop at h
  split at h
  · cases h
  · next hd =>
    cases h
    exact ⟨⟨s.sp.val - 1, by omega⟩, by simp; omega, rfl, rfl, rfl⟩

/-! ### Keys -/

theorem State.lowestKey_eq_none_iff : s.lowestKey = none ↔ ∀ j : Fin 16, s.key[j] = false := by
  simp [State.lowestKey]

/-- The key found is pressed and no lower one is (R123). -/
theorem State.lowestKey_eq_some_iff (k : Fin 16) :
    s.lowestKey = some k ↔ s.key[k] = true ∧ ∀ j : Fin 16, j < k → s.key[j] = false := by
  unfold State.lowestKey
  rw [List.find?_eq_some_iff_getElem]
  constructor
  · rintro ⟨hk, i, hi, rfl, hlt⟩
    refine ⟨hk, fun j hj => ?_⟩
    have hji : j.val < i := by simpa [Fin.lt_def] using hj
    simpa using hlt j.val hji
  · rintro ⟨hk, hlt⟩
    refine ⟨hk, k.val, by simp, by simp, fun j hj => ?_⟩
    have hj16 : j < 16 := by omega
    simpa using hlt ⟨j, hj16⟩ hj

/-! ### The range check -/

theorem withDataRange_ok {n : Nat} (t : State) (h : n = 0 ∨ s.I.toNat + n ≤ Config.memSize) :
    withDataRange s n t = t := by
  rw [withDataRange, if_pos ((accessOk_iff _ _).mpr h)]

theorem withDataRange_trap {n : Nat} (t : State) (h : ¬ (n = 0 ∨ s.I.toNat + n ≤ Config.memSize)) :
    withDataRange s n t = s.raise .dataRange := by
  rw [withDataRange, if_neg (fun k => h ((accessOk_iff _ _).mp k))]

/-- Either the whole range is in memory and the instruction has its effect, or it takes `DATA_RANGE` (R37). -/
theorem withDataRange_cases (n : Nat) (t : State) :
    ((n = 0 ∨ s.I.toNat + n ≤ Config.memSize) ∧ withDataRange s n t = t) ∨
    (¬ (n = 0 ∨ s.I.toNat + n ≤ Config.memSize) ∧ withDataRange s n t = s.raise .dataRange) := by
  by_cases h : n = 0 ∨ s.I.toNat + n ≤ Config.memSize
  · exact .inl ⟨h, withDataRange_ok s t h⟩
  · exact .inr ⟨h, withDataRange_trap s t h⟩

end Sys2Proof.Machine
end

