-- ==== Sys2Proof/Laws/Display.lean ====
section
/-! SUPPORT. What drawing a sprite does to the framebuffer and the collision flag (spec/44_display.md R111): each set
bit inverts its own cell, once. -/

namespace Sys2Proof.Machine

/-- From drawing `d` to drawing `e` exactly the cells of `P` are inverted, and the hit flag is raised if one of them
was on. -/
def Inverts (P : Nat → Prop) (d e : Drawing) : Prop :=
  (∀ k, P k → fbCell e.1 k = !fbCell d.1 k) ∧ (∀ k, ¬ P k → fbCell e.1 k = fbCell d.1 k) ∧
  (e.2 = true ↔ d.2 = true ∨ ∃ k, P k ∧ fbCell d.1 k = true)

theorem Inverts.congr {P Q : Nat → Prop} {d e : Drawing} (h : Inverts P d e) (hPQ : ∀ k, P k ↔ Q k) :
    Inverts Q d e := by
  have : P = Q := funext fun k => propext (hPQ k)
  exact this ▸ h

theorem Inverts.nothing {P : Nat → Prop} (d : Drawing) (h : ∀ k, ¬ P k) : Inverts P d d :=
  ⟨fun k hk => absurd hk (h k), fun _ _ => rfl, by simp [h]⟩

/-- Two drawings one after the other, on cells that are not the same. -/
theorem Inverts.trans {P Q : Nat → Prop} {d e f : Drawing} (h1 : Inverts P d e) (h2 : Inverts Q e f)
    (hd : ∀ k, P k → ¬ Q k) : Inverts (fun k => P k ∨ Q k) d f := by
  refine ⟨?_, ?_, ?_⟩
  · rintro k (hP | hQ)
    · rw [h2.2.1 k (hd k hP), h1.1 k hP]
    · rw [h2.1 k hQ, h1.2.1 k (fun hP => hd k hP hQ)]
  · intro k hk
    rw [h2.2.1 k (fun h => hk (.inr h)), h1.2.1 k (fun h => hk (.inl h))]
  · rw [h2.2.2, h1.2.2, or_assoc]
    refine or_congr_right ?_
    constructor
    · rintro (⟨k, hP, hc⟩ | ⟨k, hQ, hc⟩)
      · exact ⟨k, .inl hP, hc⟩
      · exact ⟨k, .inr hQ, by rwa [h1.2.1 k (fun hP => hd k hP hQ)] at hc⟩
    · rintro ⟨k, hP | hQ, hc⟩
      · exact .inl ⟨k, hP, hc⟩
      · exact .inr ⟨k, hQ, by rwa [h1.2.1 k (fun hP => hd k hP hQ)]⟩

theorem cellIndex_lt {px py : Nat} (hx : px < 64) (hy : py < 32) : cellIndex px py < 2048 := by
  simp only [cellIndex, Config.fbWidth]; omega

theorem cellIndex_inj {px py qx qy : Nat} (hx : px < 64) (hqx : qx < 64)
    (h : cellIndex px py = cellIndex qx qy) : px = qx ∧ py = qy := by
  simp only [cellIndex, Config.fbWidth] at h; omega

theorem drawPixel_inverts {px py : Nat} (hx : px < 64) (hy : py < 32) (d : Drawing) :
    Inverts (fun k => k = cellIndex px py) d (drawPixel px py d) := by
  have hj := cellIndex_lt hx hy
  refine ⟨?_, ?_, ?_⟩
  · rintro k rfl; simp [drawPixel, fbCell_flip _ _ _ hj]
  · intro k hk; simp [drawPixel, fbCell_flip _ _ _ hj, hk]
  · simp [drawPixel]

/-- The cells one sprite row inverts. -/
def RowCells (x0 py : Nat) (b : Byte) (k : Nat) : Prop :=
  ∃ col < 8, b.getLsbD (7 - col) = true ∧ k = cellIndex ((x0 + col) % 64) py

theorem drawRow_inverts (x0 : Nat) {py : Nat} (hy : py < 32) (b : Byte) (d : Drawing) :
    Inverts (RowCells x0 py b) d (drawRow x0 py b d) := by
  have key : ∀ n ≤ 8, Inverts (fun k => ∃ col < n, b.getLsbD (7 - col) = true ∧ k = cellIndex ((x0 + col) % 64) py) d
      ((List.range n).foldl
        (fun d col => if b.getLsbD (7 - col) then drawPixel ((x0 + col) % Config.fbWidth) py d else d) d) := by
    intro n
    induction n with
    | zero => intro _; exact Inverts.nothing d (by simp)
    | succ n ih =>
      intro hn
      rw [List.range_succ, List.foldl_append]
      have ih := ih (by omega)
      simp only [List.foldl_cons, List.foldl_nil]
      split
      · next hb =>
        refine (ih.trans (drawPixel_inverts (Nat.mod_lt _ (by simp)) hy _) ?_).congr ?_
        · rintro k ⟨col, hcol, _, rfl⟩ e
          have := cellIndex_inj (Nat.mod_lt _ (by omega)) (Nat.mod_lt _ (by simp)) e
          simp only at this
          omega
        · intro k
          constructor
          · rintro (⟨col, hcol, h⟩ | h)
            · exact ⟨col, by omega, h⟩
            · exact ⟨n, by omega, hb, h⟩
          · rintro ⟨col, hcol, h⟩
            by_cases e : col = n
            · subst e; exact .inr h.2
            · exact .inl ⟨col, by omega, h⟩
      · next hb =>
        refine ih.congr fun k => ⟨fun ⟨col, hcol, h⟩ => ⟨col, by omega, h⟩, fun ⟨col, hcol, h⟩ => ?_⟩
        have : col ≠ n := fun e => hb (e ▸ h.1)
        exact ⟨col, by omega, h⟩
  exact key 8 (Nat.le_refl 8)

/-- The cells a sprite inverts: row `row` of it stands on screen row `(y + row) mod 32` (R112). -/
def SpriteCells (x0 y : Nat) (bs : List Byte) (k : Nat) : Prop :=
  ∃ row, ∃ h : row < bs.length, RowCells x0 ((y + row) % 32) bs[row] k

/-- Drawing a sprite of at most 32 rows inverts each cell under a set bit once, and nothing else (R111). -/
theorem drawRows_inverts (x0 : Nat) : ∀ (y : Nat) (bs : List Byte) (d : Drawing), bs.length ≤ 32 →
    Inverts (SpriteCells x0 y bs) d (drawRows x0 y bs d)
  | y, [], d, _ => Inverts.nothing d (by simp [SpriteCells])
  | y, b :: bs, d, hlen => by
    have hlen : bs.length < 32 := by simpa using hlen
    have ih := drawRows_inverts x0 (y + 1) bs (drawRow x0 (y % 32) b d) (by omega)
    refine ((drawRow_inverts x0 (Nat.mod_lt _ (by omega)) b d).trans ih ?_).congr ?_
    · rintro k ⟨col, _, _, rfl⟩ ⟨row, hrow, col', _, _, e⟩
      have := (cellIndex_inj (Nat.mod_lt _ (by omega)) (Nat.mod_lt _ (by omega)) e).2
      omega
    · intro k
      constructor
      · rintro (h | ⟨row, hrow, h⟩)
        · exact ⟨0, by simp, h⟩
        · exact ⟨row + 1, by simpa using hrow, by simpa [show y + (row + 1) = y + 1 + row by omega] using h⟩
      · rintro ⟨row, hrow, h⟩
        cases row with
        | zero => exact .inl h
        | succ row => exact .inr ⟨row, by simpa using hrow, by simpa [show y + (row + 1) = y + 1 + row by omega] using h⟩

end Sys2Proof.Machine
end

