-- ==== Sys2Proof/Laws/Step.lean ====
section
/-! SUPPORT. Everything a step can do, said once (spec/40_step_and_dispatch.md R60). -/

namespace Sys2Proof.Machine

variable {s t : State}

theorem fetchOk_iff : fetchOk s = true ↔ s.pc.toNat ≤ 0xFFE := by simp [fetchOk]

theorem step_of_fault (h : s.fault ≠ .none) : step s = .next s.standStill := by
  rw [step, stepWith, if_pos h]

theorem step_of_pc_out (h : s.fault = .none) (hpc : s.pc.toNat > 0xFFE) : step s = .next (s.raise .fetchRange) := by
  have : fetchOk s = false := by simpa [fetchOk] using hpc
  simp [step, stepWith, h, this]

theorem step_of_decode {i : Instr} (h : s.fault = .none) (hpc : s.pc.toNat ≤ 0xFFE) (hi : fetchDecode s = .ok i) :
    step s = exec i s := by
  simp [step, stepWith, h, fetchOk_iff.mpr hpc, hi]

theorem step_of_reject {w : Word} (h : s.fault = .none) (hpc : s.pc.toNat ≤ 0xFFE)
    (hw : fetchDecode s = .error (.unrecognized w)) : step s = .next (s.unrecognized w) := by
  simp [step, stepWith, h, fetchOk_iff.mpr hpc, hw]

/-- Every next state of a step comes from one of these four cases. -/
theorem step_cases (h : step s = .next t) :
    (s.fault ≠ .none ∧ t = s.standStill) ∨
    (s.fault = .none ∧ s.pc.toNat > 0xFFE ∧ t = s.raise .fetchRange) ∨
    (s.fault = .none ∧ s.pc.toNat ≤ 0xFFE ∧ ∃ w, fetchDecode s = .error (.unrecognized w) ∧ t = s.unrecognized w) ∨
    (s.fault = .none ∧ s.pc.toNat ≤ 0xFFE ∧ ∃ i, fetchDecode s = .ok i ∧ exec i s = .next t) := by
  by_cases hf : s.fault = .none
  · by_cases hpc : s.pc.toNat ≤ 0xFFE
    · cases hd : fetchDecode s with
      | ok i =>
        rw [step_of_decode hf hpc hd] at h
        exact .inr (.inr (.inr ⟨hf, hpc, i, rfl, h⟩))
      | error e =>
        obtain ⟨w⟩ := e
        rw [step_of_reject hf hpc hd] at h
        cases h
        exact .inr (.inr (.inl ⟨hf, hpc, w, rfl, rfl⟩))
    · have hpc : s.pc.toNat > 0xFFE := by omega
      rw [step_of_pc_out hf hpc] at h
      cases h
      exact .inr (.inl ⟨hf, hpc, rfl⟩)
  · rw [step_of_fault hf] at h
    cases h
    exact .inl ⟨hf, rfl⟩

/-- A rejected word is the word at `pc`, high byte first. -/
theorem fetchDecode_eq : fetchDecode s = decode (s.mem.read s.pc.toNat ++ s.mem.read (s.pc.toNat + 1)) := rfl

/-- The word placed is the word fetched (R34). -/
theorem fetchDecode_placeWord (w : Word) (h : s.pc.toNat ≤ 0xFFE) : fetchDecode (placeWord s w) = decode w := by
  rw [placeWord, if_pos (fetchOk_iff.mpr h), fetchDecode]
  have h0 := writeBytes_read_inside s.mem s.pc.toNat [highByte w, lowByte w] 0 (by simp)
  have h1 := writeBytes_read_inside s.mem s.pc.toNat [highByte w, lowByte w] 1 (by simp)
  simp only [Nat.add_zero] at h0
  rw [State.setMemory_mem, State.setMemory_pc, h0, h1]
  exact decodeBytes_bytes w

/-- Placing a word keeps memory canonical. -/
theorem wf_placeWord (w : Word) (h : s.mem.wf = true) : (placeWord s w).mem.wf = true := by
  unfold placeWord
  split
  · next hok =>
    refine wf_writeBytes _ _ _ (.inr ?_) h
    have := fetchOk_iff.mp hok
    simp
    omega
  · exact h

end Sys2Proof.Machine
end

