-- ==== Sys2Proof/Laws/Events.lean ====
section
/-! SUPPORT. What the host's events do, one lemma per field or per case (spec/60_exceptions.md R140 to R151). -/

namespace Sys2Proof.Machine

variable (s : State)

/-! ### TICK -/

theorem countDown_toNat (t : Byte) : (countDown t).toNat = t.toNat - 1 := by
  have := t.isLt
  unfold countDown
  split
  · simp only [BitVec.toNat_ofNat]; omega
  · omega

@[simp] theorem tick_DT : (tick s).DT = countDown s.DT := rfl
@[simp] theorem tick_ST : (tick s).ST = countDown s.ST := rfl
@[simp] theorem tick_pc : (tick s).pc = s.pc := rfl
@[simp] theorem tick_I : (tick s).I = s.I := rfl
@[simp] theorem tick_stack : (tick s).stack = s.stack := rfl
@[simp] theorem tick_sp : (tick s).sp = s.sp := rfl
@[simp] theorem tick_mem : (tick s).mem = s.mem := rfl
@[simp] theorem tick_fb : (tick s).fb = s.fb := rfl
@[simp] theorem tick_key : (tick s).key = s.key := rfl
@[simp] theorem tick_redraw : (tick s).redraw = s.redraw := rfl
@[simp] theorem tick_fault : (tick s).fault = s.fault := rfl
@[simp] theorem tick_out : (tick s).out = s.out := rfl
@[simp] theorem tick_draws : (tick s).draws = s.draws := rfl
@[simp] theorem tick_reg (r : RegIdx) : (tick s).reg r = s.reg r := rfl

/-! ### KEY_WRITE -/

theorem keyWrite_keyDown (k j : RegIdx) (b : Bool) : (keyWrite k b s).keyDown j = if j = k then b else s.keyDown j := by
  split
  · next h => subst h; simp [keyWrite, State.keyDown]
  · next h =>
    have : k.toNat ≠ j.toNat := fun e => h (BitVec.eq_of_toNat_eq e).symm
    simp [keyWrite, State.keyDown, this]

@[simp] theorem keyWrite_pc (k : RegIdx) (b : Bool) : (keyWrite k b s).pc = s.pc := rfl
@[simp] theorem keyWrite_I (k : RegIdx) (b : Bool) : (keyWrite k b s).I = s.I := rfl
@[simp] theorem keyWrite_stack (k : RegIdx) (b : Bool) : (keyWrite k b s).stack = s.stack := rfl
@[simp] theorem keyWrite_sp (k : RegIdx) (b : Bool) : (keyWrite k b s).sp = s.sp := rfl
@[simp] theorem keyWrite_DT (k : RegIdx) (b : Bool) : (keyWrite k b s).DT = s.DT := rfl
@[simp] theorem keyWrite_ST (k : RegIdx) (b : Bool) : (keyWrite k b s).ST = s.ST := rfl
@[simp] theorem keyWrite_mem (k : RegIdx) (b : Bool) : (keyWrite k b s).mem = s.mem := rfl
@[simp] theorem keyWrite_fb (k : RegIdx) (b : Bool) : (keyWrite k b s).fb = s.fb := rfl
@[simp] theorem keyWrite_redraw (k : RegIdx) (b : Bool) : (keyWrite k b s).redraw = s.redraw := rfl
@[simp] theorem keyWrite_fault (k : RegIdx) (b : Bool) : (keyWrite k b s).fault = s.fault := rfl
@[simp] theorem keyWrite_out (k : RegIdx) (b : Bool) : (keyWrite k b s).out = s.out := rfl
@[simp] theorem keyWrite_draws (k : RegIdx) (b : Bool) : (keyWrite k b s).draws = s.draws := rfl
@[simp] theorem keyWrite_reg (k : RegIdx) (b : Bool) (r : RegIdx) : (keyWrite k b s).reg r = s.reg r := rfl

/-! ### REDRAW_ACK -/

@[simp] theorem redrawAck_redraw : (redrawAck s).redraw = false := rfl
@[simp] theorem redrawAck_pc : (redrawAck s).pc = s.pc := rfl
@[simp] theorem redrawAck_I : (redrawAck s).I = s.I := rfl
@[simp] theorem redrawAck_stack : (redrawAck s).stack = s.stack := rfl
@[simp] theorem redrawAck_sp : (redrawAck s).sp = s.sp := rfl
@[simp] theorem redrawAck_DT : (redrawAck s).DT = s.DT := rfl
@[simp] theorem redrawAck_ST : (redrawAck s).ST = s.ST := rfl
@[simp] theorem redrawAck_mem : (redrawAck s).mem = s.mem := rfl
@[simp] theorem redrawAck_fb : (redrawAck s).fb = s.fb := rfl
@[simp] theorem redrawAck_key : (redrawAck s).key = s.key := rfl
@[simp] theorem redrawAck_fault : (redrawAck s).fault = s.fault := rfl
@[simp] theorem redrawAck_out : (redrawAck s).out = s.out := rfl
@[simp] theorem redrawAck_draws : (redrawAck s).draws = s.draws := rfl
@[simp] theorem redrawAck_reg (r : RegIdx) : (redrawAck s).reg r = s.reg r := rfl

/-! ### LOAD and RESET -/

theorem loadProgram_ok {bytes : List Byte} (h : bytes.length ≤ Config.progMax) :
    loadProgram bytes s = (s.setMemory (writeBytes s.mem Config.progBase bytes), .loaded) := if_neg (by omega)

theorem loadProgram_error {bytes : List Byte} (h : bytes.length > Config.progMax) :
    loadProgram bytes s = (s, .loadError) := if_pos h

/-- A load keeps memory canonical. -/
theorem wf_loadProgram (bytes : List Byte) (h : s.mem.wf = true) : (loadProgram bytes s).1.mem.wf = true := by
  by_cases hl : bytes.length ≤ Config.progMax
  · rw [loadProgram_ok s hl]
    refine wf_writeBytes _ _ _ (.inr ?_) h
    simp only [Config.progMax, Config.progBase, Config.memSize] at *
    omega
  · rw [loadProgram_error s (by omega)]
    exact h

@[simp] theorem reset_reg (r : RegIdx) : State.reset.reg r = 0#8 := by simp [State.reg, State.reset]

/-- After reset the font table stands at 0x050 (R22). -/
theorem read_reset_font (k : Nat) (h : k < 80) : Memory.read [] (0x050 + k) = Config.fontTable.getD k 0#8 := by
  rw [Memory.read_nil, resetByte, if_pos (by simp only [Config.fontBase, Config.fontSize]; omega)]
  simp only [Config.fontBase, Nat.add_sub_cancel_left]

/-- After reset every byte outside the font table holds the fill (R33). -/
theorem read_reset_fill (a : Nat) (h : a < 0x050 ∨ 0x09F < a) : Memory.read [] a = 0#8 := by
  rw [Memory.read_nil, resetByte, if_neg (by simp only [Config.fontBase, Config.fontSize]; omega)]

end Sys2Proof.Machine
end

