-- ==== Sys2Proof/Laws/Flags.lean ====
section
/-! SUPPORT. The results and flags of Machine/Flags.lean and the operands of Machine/Operands.lean, in plain numbers. -/

namespace Sys2Proof.Machine

variable (a b : Byte)

theorem sumByte_toNat : (sumByte a b).toNat = (a.toNat + b.toNat) % 256 := by simp [sumByte]

theorem carryOut_iff : carryOut a b = true ↔ a.toNat + b.toNat > 255 := by simp [carryOut]

theorem diffByte_toNat : ((diffByte a b).toNat : Int) = ((a.toNat : Int) - (b.toNat : Int)) % 256 := by
  rw [diffByte, BitVec.toNat_ofInt]
  exact Int.toNat_of_nonneg (Int.emod_nonneg _ (by decide))

theorem noBorrow_iff : noBorrow a b = true ↔ a.toNat ≥ b.toNat := by simp [noBorrow]

theorem shiftedRight_toNat : (shiftedRight a).toNat = a.toNat / 2 := by
  have := a.isLt
  simp only [shiftedRight, BitVec.toNat_ofNat]
  omega

theorem shiftedLeft_toNat : (shiftedLeft a).toNat = a.toNat * 2 % 256 := by simp [shiftedLeft]

theorem indexOverflow_iff (n : Nat) : indexOverflow n = true ↔ n > 0xFFF := by simp [indexOverflow]

@[simp] theorem shiftOperand_eq (s : State) (x y : RegIdx) : shiftOperand s x y = s.reg x := rfl

theorem addrWord_toNat (nnn : Addr12) : (addrWord nnn).toNat = nnn.toNat := by
  have := nnn.isLt
  simp only [addrWord, BitVec.toNat_setWidth]
  omega

theorem offsetTarget_toNat (s : State) (nnn : Addr12) :
    (offsetTarget s nnn).toNat = nnn.toNat + (s.reg 0x0#4).toNat := by
  have := nnn.isLt
  have := (s.reg 0x0#4).isLt
  simp only [offsetTarget, BitVec.toNat_ofNat]
  omega

theorem glyphAddress_toNat : (glyphAddress b).toNat = 0x050 + 5 * b.toNat := by
  have := b.isLt
  simp only [glyphAddress, Config.fontBase, Config.glyphBytes, BitVec.toNat_ofNat]
  omega

theorem indexPlus_toNat (s : State) (n : Nat) : (indexPlus s n).toNat = (s.I.toNat + n) % 65536 := by
  simp [indexPlus]

theorem keyIndex_toNat : (keyIndex b).toNat = b.toNat % 16 := by simp [keyIndex]

end Sys2Proof.Machine
end

