-- ==== Sys2Proof/Laws/Exec.lean ====
section
/-! SUPPORT. The instructions that end in more than one way, each with its cases said once: RET, CALL and LD_Vx_K. The
memory instructions split by `withDataRange_cases`. -/

namespace Sys2Proof.Machine

variable {s t : State}

/-- RET underflows or returns (R70). -/
theorem execRet_cases (h : execRet s = .next t) :
    (s.sp.val = 0 ∧ t = s.raise .stackUnderflow) ∨
    ∃ (d : Fin 16) (u : State), s.sp.val = d.val + 1 ∧ u.sp.val = d.val ∧ u = { s with sp := u.sp } ∧
      t = u.finishAt (s.stack[d] + 2#16) := by
  unfold execRet at h
  split at h
  · next hp => cases h; exact .inl ⟨s.pop_eq_none_iff.mp hp, rfl⟩
  · next a u hp =>
    cases h
    obtain ⟨d, h1, h2, h3, h4⟩ := s.pop_eq_some hp
    exact .inr ⟨d, u, h1, h2, h4, by rw [h3]⟩

/-- CALL overflows or calls (R72). -/
theorem execCall_cases {nnn : Addr12} (h : execCall nnn s = .next t) :
    (s.sp.val = 16 ∧ t = s.raise .stackOverflow) ∨
    ∃ (d : Fin 16) (u : State), s.sp.val = d.val ∧ u.sp.val = d.val + 1 ∧ u.stack = s.stack.set d.val s.pc ∧
      u = { s with stack := u.stack, sp := u.sp } ∧ t = u.finishAt (addrWord nnn) := by
  unfold execCall at h
  split at h
  · next hp => cases h; exact .inl ⟨(s.push_eq_none_iff _).mp hp, rfl⟩
  · next u hp =>
    cases h
    obtain ⟨d, h1, h2, h3, h4⟩ := s.push_eq_some hp
    exact .inr ⟨d, u, h1, h2, h3, h4, rfl⟩

/-- LD_Vx_K stalls or takes the least pressed key (R123). -/
theorem execLdVxK_cases {x : RegIdx} (h : execLdVxK x s = .next t) :
    ((∀ j : Fin 16, s.key[j] = false) ∧ t = s.stall) ∨
    ∃ k : Fin 16, s.key[k] = true ∧ (∀ j : Fin 16, j < k → s.key[j] = false) ∧
      t = (s.setReg x (BitVec.ofNat 8 k.val)).advance := by
  unfold execLdVxK at h
  split at h
  · next hk => cases h; exact .inl ⟨s.lowestKey_eq_none_iff.mp hk, rfl⟩
  · next k hk =>
    cases h
    obtain ⟨h1, h2⟩ := (s.lowestKey_eq_some_iff k).mp hk
    exact .inr ⟨k, h1, h2, rfl⟩

end Sys2Proof.Machine
end

