-- ==== Sys2Proof/Laws/PerInstr.lean ====
section
/-! SUPPORT. A statement made for every constructor of `Instr`: the instruction's word selects, by mask and match, the
row of the opcode map that bears its name (spec/30_encoding.md R49). -/

namespace Sys2Proof.Laws.OpcodeMap

/-- The word of `i` matches the row of the opcode map with `i`'s name. -/
def Statement (i : Instr) : Prop :=
  ∃ r ∈ opcodeMap, r.mnemonic = mnemonic i ∧ encode i &&& r.mask = r.pattern

/-- The mask of a row that fixes the family alone, on a word with an address field. -/
theorem mask_address (a : Nibble) (nnn : Addr12) : (a ++ nnn) &&& 0xF000#16 = a ++ 0x000#12 := by
  rw [show (0xF000#16 : Word) = 0xF#4 ++ 0x000#12 by decide, BitVec.and_append]
  exact congrArg₂ HAppend.hAppend BitVec.and_allOnes BitVec.and_zero

/-- The same mask on a word with a register and an immediate. -/
theorem mask_immediate (a x : Nibble) (nn : Byte) : (a ++ x ++ nn) &&& 0xF000#16 = a ++ 0x0#4 ++ 0x00#8 := by
  rw [show (0xF000#16 : Word) = 0xF#4 ++ 0x0#4 ++ 0x00#8 by decide, BitVec.and_append, BitVec.and_append]
  exact congrArg₂ HAppend.hAppend (congrArg₂ HAppend.hAppend BitVec.and_allOnes BitVec.and_zero) BitVec.and_zero

/-- The same mask on a word of four nibbles. -/
theorem mask_draw (a x y n : Nibble) : (a ++ x ++ y ++ n) &&& 0xF000#16 = a ++ 0x0#4 ++ 0x0#4 ++ 0x0#4 := by
  rw [show (0xF000#16 : Word) = 0xF#4 ++ 0x0#4 ++ 0x0#4 ++ 0x0#4 by decide, BitVec.and_append, BitVec.and_append,
    BitVec.and_append]
  exact congrArg₂ HAppend.hAppend (congrArg₂ HAppend.hAppend (congrArg₂ HAppend.hAppend BitVec.and_allOnes
    BitVec.and_zero) BitVec.and_zero) BitVec.and_zero

/-- The mask of a row that fixes the family and the low nibble. -/
theorem mask_nibbles (a x y n : Nibble) : (a ++ x ++ y ++ n) &&& 0xF00F#16 = a ++ 0x0#4 ++ 0x0#4 ++ n := by
  rw [show (0xF00F#16 : Word) = 0xF#4 ++ 0x0#4 ++ 0x0#4 ++ 0xF#4 by decide, BitVec.and_append, BitVec.and_append,
    BitVec.and_append]
  exact congrArg₂ HAppend.hAppend (congrArg₂ HAppend.hAppend (congrArg₂ HAppend.hAppend BitVec.and_allOnes
    BitVec.and_zero) BitVec.and_zero) BitVec.and_allOnes

/-- The mask of a row that fixes the family and the low byte. -/
theorem mask_register (a x : Nibble) (nn : Byte) : (a ++ x ++ nn) &&& 0xF0FF#16 = a ++ 0x0#4 ++ nn := by
  rw [show (0xF0FF#16 : Word) = 0xF#4 ++ 0x0#4 ++ 0xFF#8 by decide, BitVec.and_append, BitVec.and_append]
  exact congrArg₂ HAppend.hAppend (congrArg₂ HAppend.hAppend BitVec.and_allOnes BitVec.and_zero) BitVec.and_allOnes

theorem cls : Statement (.cls) :=
  ⟨⟨"CLS", 0xFFFF, 0x00E0⟩, by decide, rfl, by decide⟩

theorem ret : Statement (.ret) :=
  ⟨⟨"RET", 0xFFFF, 0x00EE⟩, by decide, rfl, by decide⟩

theorem sys (nnn : Addr12) : Statement (.sys nnn) :=
  ⟨⟨"SYS", 0xF000, 0x0000⟩, by decide, rfl, (mask_address _ _).trans (by decide)⟩

theorem jp (nnn : Addr12) : Statement (.jp nnn) :=
  ⟨⟨"JP", 0xF000, 0x1000⟩, by decide, rfl, (mask_address _ _).trans (by decide)⟩

theorem call (nnn : Addr12) : Statement (.call nnn) :=
  ⟨⟨"CALL", 0xF000, 0x2000⟩, by decide, rfl, (mask_address _ _).trans (by decide)⟩

theorem seImm (x : RegIdx) (nn : Byte) : Statement (.seImm x nn) :=
  ⟨⟨"SE_imm", 0xF000, 0x3000⟩, by decide, rfl, (mask_immediate _ _ _).trans (by decide)⟩

theorem sneImm (x : RegIdx) (nn : Byte) : Statement (.sneImm x nn) :=
  ⟨⟨"SNE_imm", 0xF000, 0x4000⟩, by decide, rfl, (mask_immediate _ _ _).trans (by decide)⟩

theorem seReg (x : RegIdx) (y : RegIdx) : Statement (.seReg x y) :=
  ⟨⟨"SE_reg", 0xF00F, 0x5000⟩, by decide, rfl, (mask_nibbles _ _ _ _).trans (by decide)⟩

theorem ldImm (x : RegIdx) (nn : Byte) : Statement (.ldImm x nn) :=
  ⟨⟨"LD_imm", 0xF000, 0x6000⟩, by decide, rfl, (mask_immediate _ _ _).trans (by decide)⟩

theorem addImm (x : RegIdx) (nn : Byte) : Statement (.addImm x nn) :=
  ⟨⟨"ADD_imm", 0xF000, 0x7000⟩, by decide, rfl, (mask_immediate _ _ _).trans (by decide)⟩

theorem ldReg (x : RegIdx) (y : RegIdx) : Statement (.ldReg x y) :=
  ⟨⟨"LD_reg", 0xF00F, 0x8000⟩, by decide, rfl, (mask_nibbles _ _ _ _).trans (by decide)⟩

theorem or (x : RegIdx) (y : RegIdx) : Statement (.or x y) :=
  ⟨⟨"OR", 0xF00F, 0x8001⟩, by decide, rfl, (mask_nibbles _ _ _ _).trans (by decide)⟩

theorem and (x : RegIdx) (y : RegIdx) : Statement (.and x y) :=
  ⟨⟨"AND", 0xF00F, 0x8002⟩, by decide, rfl, (mask_nibbles _ _ _ _).trans (by decide)⟩

theorem xor (x : RegIdx) (y : RegIdx) : Statement (.xor x y) :=
  ⟨⟨"XOR", 0xF00F, 0x8003⟩, by decide, rfl, (mask_nibbles _ _ _ _).trans (by decide)⟩

theorem addReg (x : RegIdx) (y : RegIdx) : Statement (.addReg x y) :=
  ⟨⟨"ADD_reg", 0xF00F, 0x8004⟩, by decide, rfl, (mask_nibbles _ _ _ _).trans (by decide)⟩

theorem sub (x : RegIdx) (y : RegIdx) : Statement (.sub x y) :=
  ⟨⟨"SUB", 0xF00F, 0x8005⟩, by decide, rfl, (mask_nibbles _ _ _ _).trans (by decide)⟩

theorem shr (x : RegIdx) (y : RegIdx) : Statement (.shr x y) :=
  ⟨⟨"SHR", 0xF00F, 0x8006⟩, by decide, rfl, (mask_nibbles _ _ _ _).trans (by decide)⟩

theorem subn (x : RegIdx) (y : RegIdx) : Statement (.subn x y) :=
  ⟨⟨"SUBN", 0xF00F, 0x8007⟩, by decide, rfl, (mask_nibbles _ _ _ _).trans (by decide)⟩

theorem shl (x : RegIdx) (y : RegIdx) : Statement (.shl x y) :=
  ⟨⟨"SHL", 0xF00F, 0x800E⟩, by decide, rfl, (mask_nibbles _ _ _ _).trans (by decide)⟩

theorem sneReg (x : RegIdx) (y : RegIdx) : Statement (.sneReg x y) :=
  ⟨⟨"SNE_reg", 0xF00F, 0x9000⟩, by decide, rfl, (mask_nibbles _ _ _ _).trans (by decide)⟩

theorem ldI (nnn : Addr12) : Statement (.ldI nnn) :=
  ⟨⟨"LD_I", 0xF000, 0xA000⟩, by decide, rfl, (mask_address _ _).trans (by decide)⟩

theorem jpV0 (nnn : Addr12) : Statement (.jpV0 nnn) :=
  ⟨⟨"JP_V0", 0xF000, 0xB000⟩, by decide, rfl, (mask_address _ _).trans (by decide)⟩

theorem rnd (x : RegIdx) (nn : Byte) : Statement (.rnd x nn) :=
  ⟨⟨"RND", 0xF000, 0xC000⟩, by decide, rfl, (mask_immediate _ _ _).trans (by decide)⟩

theorem drw (x : RegIdx) (y : RegIdx) (n : Nibble) : Statement (.drw x y n) :=
  ⟨⟨"DRW", 0xF000, 0xD000⟩, by decide, rfl, (mask_draw _ _ _ _).trans (by decide)⟩

theorem skp (x : RegIdx) : Statement (.skp x) :=
  ⟨⟨"SKP", 0xF0FF, 0xE09E⟩, by decide, rfl, (mask_register _ _ _).trans (by decide)⟩

theorem sknp (x : RegIdx) : Statement (.sknp x) :=
  ⟨⟨"SKNP", 0xF0FF, 0xE0A1⟩, by decide, rfl, (mask_register _ _ _).trans (by decide)⟩

theorem ldVxDt (x : RegIdx) : Statement (.ldVxDt x) :=
  ⟨⟨"LD_Vx_DT", 0xF0FF, 0xF007⟩, by decide, rfl, (mask_register _ _ _).trans (by decide)⟩

theorem ldVxK (x : RegIdx) : Statement (.ldVxK x) :=
  ⟨⟨"LD_Vx_K", 0xF0FF, 0xF00A⟩, by decide, rfl, (mask_register _ _ _).trans (by decide)⟩

theorem ldDtVx (x : RegIdx) : Statement (.ldDtVx x) :=
  ⟨⟨"LD_DT_Vx", 0xF0FF, 0xF015⟩, by decide, rfl, (mask_register _ _ _).trans (by decide)⟩

theorem ldStVx (x : RegIdx) : Statement (.ldStVx x) :=
  ⟨⟨"LD_ST_Vx", 0xF0FF, 0xF018⟩, by decide, rfl, (mask_register _ _ _).trans (by decide)⟩

theorem addI (x : RegIdx) : Statement (.addI x) :=
  ⟨⟨"ADD_I", 0xF0FF, 0xF01E⟩, by decide, rfl, (mask_register _ _ _).trans (by decide)⟩

theorem ldF (x : RegIdx) : Statement (.ldF x) :=
  ⟨⟨"LD_F", 0xF0FF, 0xF029⟩, by decide, rfl, (mask_register _ _ _).trans (by decide)⟩

theorem ldB (x : RegIdx) : Statement (.ldB x) :=
  ⟨⟨"LD_B", 0xF0FF, 0xF033⟩, by decide, rfl, (mask_register _ _ _).trans (by decide)⟩

theorem ldMemVx (x : RegIdx) : Statement (.ldMemVx x) :=
  ⟨⟨"LD_mem_Vx", 0xF0FF, 0xF055⟩, by decide, rfl, (mask_register _ _ _).trans (by decide)⟩

theorem ldVxMem (x : RegIdx) : Statement (.ldVxMem x) :=
  ⟨⟨"LD_Vx_mem", 0xF0FF, 0xF065⟩, by decide, rfl, (mask_register _ _ _).trans (by decide)⟩

end Sys2Proof.Laws.OpcodeMap
end

