-- ==== Sys2Proof/Tests/Slice0.lean ====
section
/-! SUPPORT. The model's own tests. Expected values come from spec/95_test_vectors.md (named in each comment) or from
the encodings of spec/30_encoding.md R49; then a witness for the hypotheses of every statement that has some. -/

namespace Sys2Proof.Tests

open Sys2Proof.Machine

/-! ### WellFormed: an ill-formed term for each check -/

theorem test_wf_refuses_sys_0E0 : (Instr.sys 0x0E0#12).wf = false := by decide
theorem test_wf_refuses_sys_0EE : (Instr.sys 0x0EE#12).wf = false := by decide
theorem test_wf_takes_sys_123 : (Instr.sys 0x123#12).wf = true := by decide

/-! ### Decoding: a word written out from R49 for every constructor, as the two bytes in memory -/

theorem test_decode_cls : decodeBytes 0x00#8 0xE0#8 = .ok (.cls) := by decide
theorem test_decode_ret : decodeBytes 0x00#8 0xEE#8 = .ok (.ret) := by decide
theorem test_decode_sys : decodeBytes 0x01#8 0x23#8 = .ok (.sys 0x123#12) := by decide
theorem test_decode_jp : decodeBytes 0x12#8 0x04#8 = .ok (.jp 0x204#12) := by decide
theorem test_decode_call : decodeBytes 0x22#8 0x0A#8 = .ok (.call 0x20A#12) := by decide
theorem test_decode_seImm : decodeBytes 0x31#8 0x00#8 = .ok (.seImm 0x1#4 0x00#8) := by decide
theorem test_decode_sneImm : decodeBytes 0x42#8 0x07#8 = .ok (.sneImm 0x2#4 0x07#8) := by decide
theorem test_decode_seReg : decodeBytes 0x53#8 0x40#8 = .ok (.seReg 0x3#4 0x4#4) := by decide
theorem test_decode_ldImm : decodeBytes 0x60#8 0x05#8 = .ok (.ldImm 0x0#4 0x05#8) := by decide
theorem test_decode_addImm : decodeBytes 0x71#8 0xFF#8 = .ok (.addImm 0x1#4 0xFF#8) := by decide
theorem test_decode_ldReg : decodeBytes 0x81#8 0x20#8 = .ok (.ldReg 0x1#4 0x2#4) := by decide
theorem test_decode_or : decodeBytes 0x81#8 0x21#8 = .ok (.or 0x1#4 0x2#4) := by decide
theorem test_decode_and : decodeBytes 0x81#8 0x22#8 = .ok (.and 0x1#4 0x2#4) := by decide
theorem test_decode_xor : decodeBytes 0x81#8 0x23#8 = .ok (.xor 0x1#4 0x2#4) := by decide
theorem test_decode_addReg : decodeBytes 0x80#8 0x14#8 = .ok (.addReg 0x0#4 0x1#4) := by decide
theorem test_decode_sub : decodeBytes 0x80#8 0x15#8 = .ok (.sub 0x0#4 0x1#4) := by decide
theorem test_decode_shr : decodeBytes 0x83#8 0xA6#8 = .ok (.shr 0x3#4 0xA#4) := by decide
theorem test_decode_subn : decodeBytes 0x80#8 0x17#8 = .ok (.subn 0x0#4 0x1#4) := by decide
theorem test_decode_shl : decodeBytes 0x83#8 0x0E#8 = .ok (.shl 0x3#4 0x0#4) := by decide
theorem test_decode_sneReg : decodeBytes 0x93#8 0x40#8 = .ok (.sneReg 0x3#4 0x4#4) := by decide
theorem test_decode_ldI : decodeBytes 0xA0#8 0x50#8 = .ok (.ldI 0x050#12) := by decide
theorem test_decode_jpV0 : decodeBytes 0xB3#8 0x00#8 = .ok (.jpV0 0x300#12) := by decide
theorem test_decode_rnd : decodeBytes 0xC3#8 0x0F#8 = .ok (.rnd 0x3#4 0x0F#8) := by decide
theorem test_decode_drw : decodeBytes 0xD1#8 0x25#8 = .ok (.drw 0x1#4 0x2#4 0x5#4) := by decide
theorem test_decode_skp : decodeBytes 0xE4#8 0x9E#8 = .ok (.skp 0x4#4) := by decide
theorem test_decode_sknp : decodeBytes 0xE4#8 0xA1#8 = .ok (.sknp 0x4#4) := by decide
theorem test_decode_ldVxDt : decodeBytes 0xF2#8 0x07#8 = .ok (.ldVxDt 0x2#4) := by decide
theorem test_decode_ldVxK : decodeBytes 0xF1#8 0x0A#8 = .ok (.ldVxK 0x1#4) := by decide
theorem test_decode_ldDtVx : decodeBytes 0xF0#8 0x15#8 = .ok (.ldDtVx 0x0#4) := by decide
theorem test_decode_ldStVx : decodeBytes 0xF5#8 0x18#8 = .ok (.ldStVx 0x5#4) := by decide
theorem test_decode_addI : decodeBytes 0xF2#8 0x1E#8 = .ok (.addI 0x2#4) := by decide
theorem test_decode_ldF : decodeBytes 0xF0#8 0x29#8 = .ok (.ldF 0x0#4) := by decide
theorem test_decode_ldB : decodeBytes 0xF0#8 0x33#8 = .ok (.ldB 0x0#4) := by decide
theorem test_decode_ldMemVx : decodeBytes 0xF1#8 0x55#8 = .ok (.ldMemVx 0x1#4) := by decide
theorem test_decode_ldVxMem : decodeBytes 0xF2#8 0x65#8 = .ok (.ldVxMem 0x2#4) := by decide
theorem test_decode_rejects_5341 : decodeBytes 0x53#8 0x41#8 = .error (.unrecognized 0x5341#16) := by decide  -- T1.5
theorem test_decode_rejects_8018 : decodeBytes 0x80#8 0x18#8 = .error (.unrecognized 0x8018#16) := by decide  -- T1.7
theorem test_decode_rejects_9341 : decodeBytes 0x93#8 0x41#8 = .error (.unrecognized 0x9341#16) := by decide  -- T1.6
theorem test_decode_rejects_E09F : decodeBytes 0xE0#8 0x9F#8 = .error (.unrecognized 0xE09F#16) := by decide  -- T1.9
theorem test_decode_rejects_F166 : decodeBytes 0xF1#8 0x66#8 = .error (.unrecognized 0xF166#16) := by decide  -- T1.11

/-! ### One step on a small state -/

/-- The reset state with registers 0 to 4 and 0xF, `I`, and the word at `pc`. -/
def start (word : Nat) (v0 v1 v2 v3 v4 vF : Byte := 0) (i : Word := 0) : State :=
  { (((((((State.reset.setReg 0#4 v0).setReg 1#4 v1).setReg 2#4 v2).setReg 3#4 v3).setReg 4#4 v4).setReg 0xF#4 vF
    ).withFetchWord 16 word) with I := i }

/-- What `f` reads from the state after one step; none if the step does not answer a next state. -/
def after {α : Type} (s : State) (f : State → α) : Option α :=
  match step s with
  | .next t => some (f t)
  | .fault _ => none
  | .refused _ => none

/-- The result and record of a step that advanced. -/
def advanced : Option StepOut := some ⟨.advanced, none⟩

/-- The result of a step that faulted. -/
def faulted : Option StepOut := some ⟨.faulted, none⟩

-- T1.4
theorem test_sys_reports :
    after (start 0x0123) (fun t => (t.pc, t.out)) = some (0x202#16, some ⟨.advanced, some ⟨0x0123#16, 0x200#16⟩⟩) := by decide
-- T1.1, P6.1
theorem test_untouched_memory_reports :
    after State.reset (fun t => (t.pc, t.out)) = some (0x202#16, some ⟨.advanced, some ⟨0x0000#16, 0x200#16⟩⟩) := by decide
-- T1.11
theorem test_unrecognized_reports :
    after (start 0xF166 (i := 0x300)) (fun t => (t.pc, t.I, t.out)) = some (0x202#16, 0x300#16, some ⟨.advanced, some ⟨0xF166#16, 0x200#16⟩⟩) := by decide
-- T1.12
theorem test_fetch_range :
    after { State.reset with pc := 0xFFF } (fun t => (t.fault, t.pc, t.out)) = some (.fetchRange, 0xFFF#16, faulted) := by decide
-- T1.13
theorem test_fetch_at_top :
    after (({ State.reset with pc := 0xFFE }).withFetchWord 16 0x6007) (fun t => (t.reg 0#4, t.pc)) = some (0x07#8, 0x1000#16) := by decide
-- T1.14
theorem test_fetch_odd :
    after (({ State.reset with pc := 0x201 }).withFetchWord 16 0x6109) (fun t => (t.reg 1#4, t.pc)) = some (0x09#8, 0x203#16) := by decide
-- T1.15
theorem test_latched :
    after { start 0x6005 with fault := .stackUnderflow } (fun t => (t.reg 0#4, t.pc, t.fault, t.out)) = some (0#8, 0x200#16, .stackUnderflow, faulted) := by decide
-- T2.1
theorem test_ret :
    after (({ State.reset with sp := 1, stack := State.reset.stack.set 0 0x204, pc := 0x20C }).withFetchWord 16 0x00EE) (fun t => (t.sp, t.pc, t.stack[0])) = some (0, 0x206#16, 0x204#16) := by decide
-- T2.2
theorem test_ret_underflow :
    after (start 0x00EE) (fun t => (t.fault, t.out, t.pc, t.sp)) = some (.stackUnderflow, faulted, 0x200#16, 0) := by decide
-- T2.7
theorem test_jp_odd :
    after (start 0x1201) (fun t => (t.pc, t.out)) = some (0x201#16, advanced) := by decide
-- T2.9
theorem test_call_deepest :
    after (({ State.reset with sp := 15, pc := 0x300 }).withFetchWord 16 0x2400) (fun t => (t.stack[15], t.sp, t.pc)) = some (0x300#16, 16, 0x400#16) := by decide
-- T2.10
theorem test_call_overflow :
    after (({ State.reset with sp := 16, pc := 0x300 }).withFetchWord 16 0x2400) (fun t => (t.fault, t.sp, t.pc, t.stack)) = some (.stackOverflow, 16, 0x300#16, State.reset.stack) := by decide
-- T2.11
theorem test_seImm_skips :
    after (start 0x3100) (fun t => t.pc) = some 0x204#16 := by decide
-- T2.12
theorem test_seImm_stays :
    after (start 0x3100 (v1 := 1)) (fun t => t.pc) = some 0x202#16 := by decide
-- T2.13
theorem test_sneImm_stays :
    after (start 0x4207 (v2 := 7)) (fun t => t.pc) = some 0x202#16 := by decide
-- T2.14
theorem test_sneImm_skips :
    after (start 0x4207 (v2 := 8)) (fun t => t.pc) = some 0x204#16 := by decide
-- T2.15
theorem test_seReg_skips :
    after (start 0x5340 (v3 := 0x10) (v4 := 0x10)) (fun t => t.pc) = some 0x204#16 := by decide
-- T2.16
theorem test_seReg_stays :
    after (start 0x5340 (v3 := 0x10) (v4 := 0x11)) (fun t => t.pc) = some 0x202#16 := by decide
-- T2.18
theorem test_sneReg_skips :
    after (start 0x9340 (v3 := 1) (v4 := 2)) (fun t => t.pc) = some 0x204#16 := by decide
-- T2.19
theorem test_sneReg_same_register :
    after (start 0x9330 (v3 := 9)) (fun t => t.pc) = some 0x202#16 := by decide
-- T2.21
theorem test_jpV0_not_masked :
    after (start 0xBFFF (v0 := 0xFF)) (fun t => t.pc) = some 0x10FE#16 := by decide
-- T2.22
theorem test_jpV0_register_zero :
    after (start 0xB300 (v0 := 0x10) (v3 := 0x99)) (fun t => t.pc) = some 0x310#16 := by decide
-- T3.2
theorem test_ldImm_flag_register :
    after (start 0x6FAA) (fun t => (t.reg 0xF#4, t.pc)) = some (0xAA#8, 0x202#16) := by decide
-- T3.3
theorem test_addImm_no_flag :
    after (start 0x71FF (v1 := 5) (vF := 1)) (fun t => (t.reg 1#4, t.reg 0xF#4)) = some (4#8, 1#8) := by decide
-- T3.5
theorem test_addImm_flag_register :
    after (start 0x7F01 (vF := 0xFF)) (fun t => t.reg 0xF#4) = some 0#8 := by decide
-- T3.6
theorem test_ldReg :
    after (start 0x8120 (v2 := 0xAB)) (fun t => (t.reg 1#4, t.reg 2#4)) = some (0xAB#8, 0xAB#8) := by decide
-- T3.7
theorem test_or_leaves_flag :
    after (start 0x8121 (v1 := 0xF0) (v2 := 0x0F) (vF := 1)) (fun t => (t.reg 1#4, t.reg 0xF#4)) = some (0xFF#8, 1#8) := by decide
-- T3.8
theorem test_and :
    after (start 0x8122 (v1 := 0xF3) (v2 := 0x3C)) (fun t => t.reg 1#4) = some 0x30#8 := by decide
-- T3.9
theorem test_xor :
    after (start 0x8123 (v1 := 0xFF) (v2 := 0x0F)) (fun t => t.reg 1#4) = some 0xF0#8 := by decide
-- T3.11
theorem test_addReg_carry :
    after (start 0x8014 (v0 := 0xC8) (v1 := 0x64)) (fun t => (t.reg 0#4, t.reg 0xF#4)) = some (0x2C#8, 1#8) := by decide
-- T3.16
theorem test_addReg_flag_last :
    after (start 0x8F14 (vF := 0xF0) (v1 := 0x20)) (fun t => t.reg 0xF#4) = some 1#8 := by decide
-- T3.19
theorem test_sub_equal :
    after (start 0x8015 (v0 := 5) (v1 := 5)) (fun t => (t.reg 0#4, t.reg 0xF#4)) = some (0#8, 1#8) := by decide
-- T3.22
theorem test_sub_borrow :
    after (start 0x8015 (v0 := 5) (v1 := 0x0A)) (fun t => (t.reg 0#4, t.reg 0xF#4)) = some (0xFB#8, 0#8) := by decide
-- T3.25
theorem test_subn :
    after (start 0x8017 (v0 := 5) (v1 := 0x0A)) (fun t => (t.reg 0#4, t.reg 0xF#4)) = some (5#8, 1#8) := by decide
-- T3.26
theorem test_subn_borrow :
    after (start 0x8017 (v0 := 0x0A) (v1 := 5)) (fun t => (t.reg 0#4, t.reg 0xF#4)) = some (0xFB#8, 0#8) := by decide
-- T3.29
theorem test_shr_ignores_y :
    after ((start 0x83A6 (v3 := 5)).setReg 0xA#4 0xFE) (fun t => (t.reg 3#4, t.reg 0xF#4, t.reg 0xA#4)) = some (2#8, 1#8, 0xFE#8) := by decide
-- T3.33
theorem test_shr_flag_register :
    after (start 0x8F06 (vF := 2)) (fun t => t.reg 0xF#4) = some 0#8 := by decide
-- T3.34
theorem test_shl :
    after (start 0x830E (v3 := 0x81)) (fun t => (t.reg 3#4, t.reg 0xF#4)) = some (2#8, 1#8) := by decide
-- T3.37
theorem test_shl_flag_register :
    after (start 0x8F0E (vF := 0x80)) (fun t => t.reg 0xF#4) = some 1#8 := by decide
-- T4.2
theorem test_ldI :
    after (start 0xA000 (i := 0xFFFF)) (fun t => t.I) = some 0#16 := by decide
-- T4.5
theorem test_addI_above :
    after (start 0xF21E (v2 := 1) (i := 0xFFF)) (fun t => (t.I, t.reg 0xF#4)) = some (0x1000#16, 1#8) := by decide
-- T4.8
theorem test_addI_flag_register :
    after (start 0xFF1E (vF := 5) (i := 0x100)) (fun t => (t.I, t.reg 0xF#4)) = some (0x105#16, 0#8) := by decide
-- T4.10
theorem test_ldF :
    after (start 0xF029 (v0 := 0x0F)) (fun t => t.I) = some 0x9B#16 := by decide
-- T4.12
theorem test_ldF_not_masked :
    after (start 0xF029 (v0 := 0xFF)) (fun t => t.I) = some 0x54B#16 := by decide
-- T4.13
theorem test_ldB :
    after (start 0xF033 (v0 := 0xEA) (i := 0x300)) (fun t => readBytes t.mem 0x300 3) = some [2, 3, 4] := by decide
-- T4.18
theorem test_ldB_out_of_range :
    after (start 0xF033 (v0 := 0x64) (i := 0xFFE)) (fun t => (t.fault, t.pc, readBytes t.mem 0xFFE 2)) = some (.dataRange, 0x200#16, [0, 0]) := by decide
-- T4.19
theorem test_ldMemVx :
    after (start 0xF155 (v0 := 0x11) (v1 := 0x22) (i := 0x400)) (fun t => (readBytes t.mem 0x400 3, t.I)) = some ([0x11, 0x22, 0], 0x402#16) := by decide
-- T4.20
theorem test_ldMemVx_top :
    after (start 0xF055 (v0 := 0x77) (i := 0xFFF)) (fun t => (t.mem.read 0xFFF, t.I)) = some (0x77#8, 0x1000#16) := by decide
-- T4.24
theorem test_ldVxMem_font :
    after (start 0xFF65 (i := 0x50)) (fun t => ((List.range 16).map fun k => t.reg (BitVec.ofNat 4 k), t.I)) = some ([0xF0, 0x90, 0x90, 0x90, 0xF0, 0x20, 0x60, 0x20, 0x20, 0x70, 0xF0, 0x10, 0xF0, 0x80, 0xF0, 0xF0], 0x60#16) := by decide
-- T4.23, T4.25
theorem test_ldVxMem_leaves_above :
    after (start 0xF065 (v1 := 0x99) (i := 0x50)) (fun t => (t.reg 0#4, t.reg 1#4, t.I)) = some (0xF0#8, 0x99#8, 0x51#16) := by decide
-- T5.1
theorem test_cls :
    after { start 0x00E0 with fb := fbFlip fbClear 2047 } (fun t => (t.fb, t.redraw)) = some (fbClear, true) := by decide
-- S10, R113, T5.3
theorem test_drw_glyph :
    after (start 0xD005 (i := 0x50)) (fun t => (t.fb.toList, t.reg 0xF#4, t.redraw, t.pc)) = some ([0xF#64, 0x9#64, 0x9#64, 0x9#64, 0xF#64] ++ List.replicate 27 0#64, 0#8, true, 0x202#16) := by decide
-- T5.7 with cell 2047 on before
theorem test_drw_collides_and_wraps :
    after { start 0xD011 (v0 := 0x3C) (v1 := 0x1F) (i := 0x300) with
        fb := fbFlip fbClear 2047, mem := [(0x200, 0xD0#8), (0x201, 0x11#8), (0x300, 0xFF#8)] }
      (fun t => (t.fb[31], t.reg 0xF#4)) = some (0x700000000000000F#64, 1#8) := by decide
-- T6.3
theorem test_skp_low_bits :
    after { start 0xE49E (v4 := 0x17) with key := State.reset.key.set 7 true } (fun t => t.pc) = some 0x204#16 := by decide
-- T6.2
theorem test_skp_released :
    after (start 0xE49E (v4 := 7)) (fun t => t.pc) = some 0x202#16 := by decide
-- T6.4
theorem test_sknp_pressed :
    after { start 0xE4A1 (v4 := 7) with key := State.reset.key.set 7 true } (fun t => t.pc) = some 0x202#16 := by decide
-- T6.5
theorem test_sknp_released :
    after (start 0xE4A1 (v4 := 7)) (fun t => t.pc) = some 0x204#16 := by decide
-- T6.6
theorem test_ldVxDt :
    after { start 0xF207 with DT := 2 } (fun t => t.reg 2#4) = some 2#8 := by decide
-- T6.7
theorem test_ldVxK_stalls :
    after (start 0xF10A) (fun t => (t.pc, t.out)) = some (0x200#16, some ⟨.stalled, none⟩) := by decide
-- T6.8
theorem test_ldVxK_least :
    after { start 0xF10A with key := (State.reset.key.set 9 true).set 3 true } (fun t => (t.reg 1#4, t.pc)) = some (3#8, 0x202#16) := by decide
-- T6.11
theorem test_ldDtVx :
    after (start 0xF015 (v0 := 3)) (fun t => (t.DT, t.ST)) = some (3#8, 0#8) := by decide
-- T6.12
theorem test_ldStVx :
    after (start 0xF118 (v1 := 0x1E)) (fun t => (t.ST, t.DT, readSoundActive t)) = some (0x1E#8, 0#8, true) := by decide
-- T3.40
theorem test_rnd_mask_zero : after (start 0xC300) (fun t => t.reg 3#4) = some 0#8 := by
  have h : after (start 0xC300) (fun t => t.reg 3#4) = some (Config.rnd 0 &&& 0#8) := by rfl
  exact h.trans (congrArg some BitVec.and_zero)
-- T3.41
theorem test_rnd_mask_full : after (start 0xC3FF) (fun t => (t.reg 3#4, t.draws)) = some (Config.rnd 0 &&& 0xFF#8, 1) := by
  rfl

-- R5, R6: the parameters and the types of the state agree
theorem test_parameters (s : State) :
    (s.V.toList.length, s.key.toList.length, s.stack.toList.length, s.fb.toList.length) =
      (Config.nregs, Config.nkeys, Config.stackDepth, Config.fbHeight) ∧
    (Byte = BitVec Config.timerWidth ∧ Word = BitVec Config.pcWidth ∧ Word = BitVec Config.iWidth ∧
      Word = BitVec Config.iwWidth ∧ Word = BitVec Config.stackEntryWidth) ∧
    Config.stackDepth < 2 ^ Config.spWidth ∧ Config.progBase + Config.progMax = Config.memSize := by
  refine ⟨by simp, ⟨rfl, rfl, rfl, rfl, rfl⟩, by decide, by decide⟩

/-! ### Host events -/

-- T6.15
theorem test_tick : ((tick { State.reset with DT := 0xFF, ST := 0x02 }).DT, (tick { State.reset with DT := 0xFF, ST := 0x02 }).ST) =
    (0xFE#8, 0x01#8) := by decide
-- T6.16, T6.17
theorem test_tick_floor_and_fault : (tick { State.reset with fault := .stackOverflow, DT := 4 }).DT = 3#8 ∧
    (tick { State.reset with fault := .stackOverflow, DT := 4 }).ST = 0#8 := by decide
-- T6.18
theorem test_keyWrite : (keyWrite 2#4 true State.reset).keyDown 2#4 = true := by decide
-- T6.19
theorem test_redrawAck : (redrawAck { State.reset with redraw := true }).redraw = false := by decide
-- T6.20
theorem test_load_error : loadProgram (List.replicate 3585 0xFF#8) State.reset = (State.reset, .loadError) := by
  exact if_pos (by rw [List.length_replicate]; decide)
-- S9: two steps of the program 60 05 A0 50
theorem test_load_places_bytes : readBytes (loadProgram [0x60, 0x05, 0xA0, 0x50] State.reset).1.mem 0x200 5 =
    [0x60, 0x05, 0xA0, 0x50, 0x00] := by decide
-- R93, R160: a draw after RESET is a fresh one
theorem test_reset_goes_on_drawing : (resetEvent { State.reset with draws := 3, pc := 0x300 }).draws = 3 ∧
    (resetEvent { State.reset with draws := 3, pc := 0x300 }).pc = 0x200#16 := by decide
-- R131
theorem test_fault_read : readFault { State.reset with fault := .dataRange, pc := 0x202 } = (4, some 0x202#16) := by decide
-- R22: glyph A at 0x082, the byte after the table is the fill
theorem test_font : readBytes State.reset.mem 0x82 5 = [0xF0, 0x90, 0xF0, 0x90, 0x90] ∧ State.reset.mem.read 0xA0 = 0#8 ∧
    Config.fontTable.length = 80 := by decide
-- R33: writing the reset contents leaves no entry
theorem test_memory_canonical : ((State.reset.mem.write 0x300 7).write 0x300 0) = [] ∧
    ((State.reset.mem.write 0x50 0).write 0x4F 1) = [(0x4F, 1#8), (0x50, 0#8)] := by decide

/-! ### A witness for the hypotheses of every statement that has some -/

theorem witness_DecodeOfEncodeGivesTheInstruction : (Instr.sys 0x123#12).wf = true ∧ (Instr.drw 0xF#4 0xF#4 0xF#4).wf = true := by
  decide
theorem witness_EncodeOfDecodeGivesTheWord : decode 0x83A6#16 = .ok (.shr 0x3#4 0xA#4) := by decide
theorem witness_StepRunsTheDecodedInstruction :
    let s := ({ State.reset with pc := 0xFFE }).withFetchWord 16 0x6007
    s.fault = .none ∧ s.pc.toNat ≤ 0xFFE ∧
      decodeBytes (s.mem.read s.pc.toNat) (s.mem.read (s.pc.toNat + 1)) = .ok (.ldImm 0x0#4 0x07#8) := by decide
theorem witness_UnrecognizedWordReportsAndAdvances :
    let s := start 0xF166
    s.fault = .none ∧ s.pc.toNat ≤ 0xFFE ∧ 0xF166#16 = s.mem.read s.pc.toNat ++ s.mem.read (s.pc.toNat + 1) ∧
      decode 0xF166#16 = .error (.unrecognized 0xF166#16) := by decide
theorem witness_FetchAboveMemoryTakesFetchRange :
    let s := { State.reset with pc := 0xFFF }
    s.fault = .none ∧ s.pc.toNat > 0xFFE := by decide
theorem witness_StandingFaultStopsEveryStep : { State.reset with fault := .dataRange }.fault ≠ .none := by decide
theorem witness_RetPopsOrUnderflows : State.reset.sp.val = 0 ∧
    { State.reset with sp := 1 }.sp.val = (0 : Fin 16).val + 1 ∧
    { State.reset with sp := 16 }.sp.val = (15 : Fin 16).val + 1 := by decide
theorem witness_CallPushesOrOverflows : { State.reset with sp := 16 }.sp.val = 16 ∧
    State.reset.sp.val = (0 : Fin 16).val ∧ { State.reset with sp := 15 }.sp.val = (15 : Fin 16).val := by decide
theorem witness_CallThenMatchingReturnRoundTrip :
    ∃ s t u : State, s.sp.val = (15 : Fin 16).val ∧ exec (.call 0x400#12) s = .next t ∧ u.sp = t.sp ∧
      u.stack[(15 : Fin 16)] = t.stack[(15 : Fin 16)] :=
  ⟨{ State.reset with sp := 15, pc := 0x300 }, _, _, by decide, rfl, rfl, rfl⟩
theorem witness_ShiftThereAndBackRestores : (0x3#4 : RegIdx) ≠ 0xF#4 ∧
    ((start 0 (v3 := 0x54)).reg 0x3#4).getLsbD 0 = false ∧ ((start 0 (v3 := 0x7F)).reg 0x3#4).getLsbD 7 = false := by decide
theorem witness_BcdStoresThreeDigitsOrTraps : { State.reset with I := 0xFFE }.I.toNat + 2 > 0xFFF ∧
    { State.reset with I := 0xFFD }.I.toNat + 2 ≤ 0xFFF := by decide
theorem witness_RegisterDumpStoresOrTraps : { State.reset with I := 0xFFF }.I.toNat + (1#4 : RegIdx).toNat > 0xFFF ∧
    { State.reset with I := 0xFF0 }.I.toNat + (0xF#4 : RegIdx).toNat ≤ 0xFFF := by decide
theorem witness_RegisterLoadReadsOrTraps : { State.reset with I := 0x1000 }.I.toNat + (0#4 : RegIdx).toNat > 0xFFF ∧
    { State.reset with I := 0xFFF }.I.toNat + (0#4 : RegIdx).toNat ≤ 0xFFF := by decide
theorem witness_LoadAfterDumpRestoresTheRegisters :
    ∃ s t u : State, s.I.toNat + (2#4 : RegIdx).toNat ≤ 0xFFF ∧ exec (.ldMemVx 2#4) s = .next t ∧ u.mem = t.mem ∧
      u.I = s.I :=
  ⟨start 0 (v0 := 1) (v1 := 2) (v2 := 3) (i := 0x300), _, { State.reset with mem := _, I := 0x300 }, by decide, rfl, rfl, rfl⟩
theorem witness_DumpedCodeIsFetchedAsStored :
    ∃ (s t : State) (k : Nat), s.I.toNat + (1#4 : RegIdx).toNat ≤ 0xFFF ∧ exec (.ldMemVx 1#4) s = .next t ∧
      k < (1#4 : RegIdx).toNat ∧ t.pc.toNat = s.I.toNat + k :=
  ⟨start 0 (v0 := 0x6F) (v1 := 0x2A) (i := 0x202), _, 0, by decide, rfl, by decide, by decide⟩
theorem witness_DrawInvertsThePixelsUnderTheSprite :
    (0 < (1#4 : Nibble).toNat ∧ { State.reset with I := 0x1000 }.I.toNat + (1#4 : Nibble).toNat - 1 > 0xFFF) ∧
    (0#4 : Nibble).toNat = 0 ∧ { State.reset with I := 0xFFB }.I.toNat + (5#4 : Nibble).toNat - 1 ≤ 0xFFF := by decide
theorem witness_draw_collision : ∃ px < 64, ∃ py < 32,
    SpriteBit { State.reset with I := 0x50, fb := fbFlip fbClear 0 } 0#4 0#4 5#4 px py ∧
      pixel { State.reset with I := 0x50, fb := fbFlip fbClear 0 } px py = true :=
  ⟨0, by decide, 0, by decide, ⟨0, by decide, 0, by decide, by decide, by decide, by decide⟩, by decide⟩
theorem witness_draw_no_collision : ¬ ∃ px < 64, ∃ py < 32, SpriteBit State.reset 0#4 0#4 0#4 px py ∧
    pixel State.reset px py = true := by
  rintro ⟨_, _, _, _, ⟨_, h, _⟩, _⟩
  exact absurd h (Nat.not_lt_zero _)
theorem witness_DrawingTwiceRestoresTheScreen :
    ∃ s t u : State, (0#4 : RegIdx) ≠ 0xF#4 ∧ (1#4 : RegIdx) ≠ 0xF#4 ∧
      ((5#4 : Nibble).toNat = 0 ∨ s.I.toNat + (5#4 : Nibble).toNat - 1 ≤ 0xFFF) ∧
      exec (.drw 0#4 1#4 5#4) s = .next t ∧ exec (.drw 0#4 1#4 5#4) t = .next u :=
  ⟨{ State.reset with I := 0x50 }, _, _, by decide, by decide, by decide, rfl, rfl⟩
theorem witness_KeySkipsTestTheSelectedKey : (7 : Fin 16).val = ((start 0 (v4 := 0x17)).reg 4#4).toNat % 16 ∧
    (15 : Fin 16).val = ((start 0 (v4 := 0xFF)).reg 4#4).toNat % 16 := by decide
theorem witness_WaitForKeyStallsOrTakesTheLeastKey : (∀ j : Fin 16, State.reset.key[j] = false) ∧
    (let s := { State.reset with key := State.reset.key.set 15 true }
     s.key[(15 : Fin 16)] = true ∧ ∀ j : Fin 16, j < 15 → s.key[j] = false) ∧
    (let s := { State.reset with key := (State.reset.key.set 15 true).set 0 true }
     s.key[(0 : Fin 16)] = true ∧ ∀ j : Fin 16, j < 0 → s.key[j] = false) := by decide
theorem witness_TickCountsBothTimersDown : { State.reset with DT := 1, ST := 0xFF }.DT.toNat > 0 ∧
    { State.reset with DT := 1, ST := 0xFF }.ST.toNat > 0 ∧ State.reset.DT.toNat = 0 ∧ State.reset.ST.toNat = 0 := by decide
theorem witness_KeyWriteSetsOneKey : (0x0#4 : RegIdx) ≠ 0xF#4 := by decide
theorem witness_LoadWritesTheProgramOrReportsAnError : (List.replicate 3585 0xFF#8).length > 3584 ∧
    (List.replicate 3584 0xFF#8).length ≤ 3584 := by
  rw [List.length_replicate, List.length_replicate]
  decide
theorem witness_EveryEventKeepsMemoryCanonical :
    ∃ s t u : State, s.mem.wf = true ∧ step s = .next t ∧ handle .tick s = .next u :=
  ⟨start 0xF033 (v0 := 0xEA) (i := 0x300), _, _, by decide, rfl, rfl⟩
theorem witness_EveryEventKeepsControlInRange :
    ∃ s t u : State, ControlInRange s ∧ step s = .next t ∧ handle (.keyWrite 3#4 true) s = .next u :=
  ⟨({ State.reset with pc := 0xFFE }).withFetchWord 16 0x2FFF, _, _, ⟨by decide, by decide⟩, rfl, rfl⟩
theorem witness_TimersAndKeysHaveTheirOnlyWriters :
    ∃ s t u : State, exec (.ldDtVx 0#4) s = .next t ∧ t.DT ≠ s.DT ∧ exec (.ldStVx 0#4) s = .next u ∧ u.ST ≠ s.ST :=
  ⟨start 0 (v0 := 3), _, _, rfl, by decide, rfl, by decide⟩
theorem witness_ScreenAndStackHaveTheirOnlyWriters :
    ∃ s t u : State, exec .cls s = .next t ∧ t.redraw ≠ s.redraw ∧ exec (.call 0x300#12) s = .next u ∧
      u.stack ≠ s.stack ∧ u.sp ≠ s.sp :=
  ⟨State.reset, _, _, rfl, by decide, rfl, by decide, by decide⟩
theorem witness_IndexAndMemoryHaveTheirOnlyWriters :
    ∃ s t : State, exec (.ldMemVx 0#4) s = .next t ∧ t.I ≠ s.I ∧ ∃ a, t.mem.read a ≠ s.mem.read a :=
  ⟨start 0 (v0 := 0x77) (i := 0x300), _, rfl, by decide, 0x300, by decide⟩
theorem witness_FlagRegisterHasItsOnlyWriters :
    ∃ s t : State, exec (.addReg 0#4 1#4) s = .next t ∧ t.reg 0xF#4 ≠ s.reg 0xF#4 :=
  ⟨start 0 (v0 := 0xFF) (v1 := 1), _, rfl, by decide⟩
theorem witness_FaultsArePrecise : ∃ s t : State, step s = .next t ∧ t.fault ≠ s.fault :=
  ⟨start 0x00EE, _, rfl, by decide⟩
theorem witness_FaultCodesHaveTheirCauses :
    ∃ s t : State, s.fault = .none ∧ step s = .next t ∧ t.fault = .dataRange :=
  ⟨start 0xF033 (i := 0xFFE), _, by decide, rfl, by decide⟩
theorem witness_LatchIsClearedByResetAlone :
    ∃ s t : State, s.fault ≠ .none ∧ Event.tick ≠ .reset ∧ handle .tick s = .next t :=
  ⟨{ State.reset with fault := .stackOverflow, DT := 4 }, _, by decide, by decide, rfl⟩
theorem witness_DiagnosticIsEmittedExactlyForUnrecognizedWords :
    ∃ s t : State, s.fault = .none ∧ s.pc.toNat ≤ 0xFFE ∧ step s = .next t ∧
      t.out = some ⟨.advanced, some ⟨0xFFFF#16, 0x200#16⟩⟩ :=
  ⟨start 0xFFFF, _, by decide, by decide, rfl, by decide⟩
theorem witness_StepResultTellsStallAndFault : ∃ s t : State, step s = .next t ∧ t.out = some ⟨.stalled, none⟩ :=
  ⟨start 0xF10A, _, rfl, by decide⟩
theorem witness_SoundTimerAndRedrawAreNeverRead :
    ∃ s t : State, exec (.ldVxDt 2#4) s = .next t ∧ s.ST ≠ 0x1E#8 ∧ s.redraw ≠ true :=
  ⟨{ State.reset with DT := 2 }, _, rfl, by decide, by decide⟩

end Sys2Proof.Tests
end

section
/-! Frames, one rule per operation: a frame that allows what the operation writes still holds after it. Chained, the
rules give the frame of an instruction from the way its meaning is built. -/

namespace Sys2Proof.Machine

variable {regs : List RegIdx} {parts : List Part} {s t : State}

theorem Frame.refl : Frame regs parts s s := by simp [Frame]

/-! ### Registers -/

theorem Frame.setReg (h : Frame regs parts s t) {x : RegIdx} (hx : x ∈ regs) (b : Byte) :
    Frame regs parts s (t.setReg x b) := by
  refine ⟨fun r hr => ?_, h.2⟩
  have hne : r ≠ x := fun e => hr (e ▸ hx)
  rw [State.reg_setReg_ne t b hne, h.1 r hr]

theorem Frame.setFlag (h : Frame regs parts s t) (hf : 0xF#4 ∈ regs) (c : Bool) :
    Frame regs parts s (t.setFlag c) := h.setReg hf _

theorem Frame.setRegsUpTo (h : Frame regs parts s t) {x : RegIdx}
    (hx : ∀ r : RegIdx, r.toNat ≤ x.toNat → r ∈ regs) (f : Nat → Byte) : Frame regs parts s (t.setRegsUpTo x f) := by
  refine ⟨fun r hr => ?_, h.2⟩
  rw [State.reg_setRegsUpTo, if_neg (fun hle => hr (hx r hle)), h.1 r hr]

theorem Frame.writeResult (h : Frame regs parts s t) {x : RegIdx} (hx : x ∈ regs) (v : Byte) :
    Frame regs parts s (t.writeResult x v) := h.setReg hx v

theorem Frame.writeResultAndFlag (h : Frame regs parts s t) {x : RegIdx} (hx : x ∈ regs) (hf : 0xF#4 ∈ regs)
    (v : Byte) (c : Bool) : Frame regs parts s (t.writeResultAndFlag x v c) := (h.setReg hx v).setFlag hf c

/-! ### Other parts -/

section
variable (h : Frame regs parts s t)
include h

theorem Frame.setIndex (hp : Part.I ∈ parts) (a : Word) : Frame regs parts s (t.setIndex a) :=
  ⟨h.1, fun hn => absurd hp hn, h.2.2⟩

theorem Frame.setMemory (hp : Part.mem ∈ parts) (m : Memory) : Frame regs parts s (t.setMemory m) := by
  obtain ⟨hreg, hI, hstack, hsp, hDT, hST, -, hrest⟩ := h
  exact ⟨hreg, hI, hstack, hsp, hDT, hST, fun hn => absurd hp hn, hrest⟩

theorem Frame.setDelay (hp : Part.DT ∈ parts) (b : Byte) : Frame regs parts s (t.setDelay b) := by
  obtain ⟨hreg, hI, hstack, hsp, -, hrest⟩ := h
  exact ⟨hreg, hI, hstack, hsp, fun hn => absurd hp hn, hrest⟩

theorem Frame.setSound (hp : Part.ST ∈ parts) (b : Byte) : Frame regs parts s (t.setSound b) := by
  obtain ⟨hreg, hI, hstack, hsp, hDT, -, hrest⟩ := h
  exact ⟨hreg, hI, hstack, hsp, hDT, fun hn => absurd hp hn, hrest⟩

theorem Frame.setScreen (hfb : Part.fb ∈ parts) (hr : Part.redraw ∈ parts) (fb : Framebuffer) :
    Frame regs parts s (t.setScreen fb) := by
  obtain ⟨hreg, hI, hstack, hsp, hDT, hST, hmem, -, hkey, -, hrest⟩ := h
  exact ⟨hreg, hI, hstack, hsp, hDT, hST, hmem, fun hn => absurd hfb hn, hkey, fun hn => absurd hr hn, hrest⟩

theorem Frame.countDraw (hp : Part.draws ∈ parts) : Frame regs parts s t.countDraw := by
  obtain ⟨hreg, hI, hstack, hsp, hDT, hST, hmem, hfb, hkey, hredraw, hfault, -⟩ := h
  exact ⟨hreg, hI, hstack, hsp, hDT, hST, hmem, hfb, hkey, hredraw, hfault, fun hn => absurd hp hn⟩

theorem Frame.raise (hp : Part.fault ∈ parts) (code : FaultCode) : Frame regs parts s (t.raise code) := by
  obtain ⟨hreg, hI, hstack, hsp, hDT, hST, hmem, hfb, hkey, hredraw, -, hdraws⟩ := h
  exact ⟨hreg, hI, hstack, hsp, hDT, hST, hmem, hfb, hkey, hredraw, fun hn => absurd hp hn, hdraws⟩

/-! ### The ways an instruction ends write `pc` and the outputs alone -/

theorem Frame.finishAt (a : Word) : Frame regs parts s (t.finishAt a) := h

theorem Frame.advance : Frame regs parts s t.advance := h

theorem Frame.skipIf (c : Bool) : Frame regs parts s (t.skipIf c) := h

theorem Frame.stall : Frame regs parts s t.stall := h

theorem Frame.unrecognized (w : Word) : Frame regs parts s (t.unrecognized w) := h

end

/-- Allowing more parts to change keeps a frame. -/
theorem Frame.mono {parts' : List Part} (h : Frame regs parts s t) (hsub : parts ⊆ parts') :
    Frame regs parts' s t := by
  obtain ⟨hreg, hI, hstack, hsp, hDT, hST, hmem, hfb, hkey, hredraw, hfault, hdraws⟩ := h
  have out (p : Part) : p ∉ parts' → p ∉ parts := mt (@hsub p)
  exact ⟨hreg, hI ∘ out _, hstack ∘ out _, hsp ∘ out _, hDT ∘ out _, hST ∘ out _, hmem ∘ out _, hfb ∘ out _,
    hkey ∘ out _, hredraw ∘ out _, hfault ∘ out _, hdraws ∘ out _⟩

/-- The cells are all there is to a framebuffer (R20; log 4). -/
theorem fb_ext {fb fb' : Framebuffer} (h : ∀ j, fbCell fb j = fbCell fb' j) : fb = fb' := by
  apply Vector.ext
  intro row hrow
  apply BitVec.eq_of_getLsbD_eq
  intro col hcol
  have hdiv : (64 * row + col) / 64 = row := by omega
  have hmod : (64 * row + col) % 64 = col := by omega
  simpa [fbCell, hdiv, hmod, hrow] using h (64 * row + col)

end Sys2Proof.Machine
end

section
/-! What each instruction may write, as one table of registers and one of parts, and the frame every instruction keeps
by it: who writes what is then read off the tables. -/

namespace Sys2Proof.Machine

variable {s t : State} {i : Instr}

/-- The registers that register load fills (R105). -/
def loadedRegs : Instr → List RegIdx
  | .ldVxMem x => (List.range (x.toNat + 1)).map (BitVec.ofNat 4)
  | _ => []

/-- The registers an instruction may write: its destination, the flag register as a side effect, those it loads
(R10, R11). -/
def writtenRegs (i : Instr) : List RegIdx :=
  (destination i).toList ++ (if writesFlag i then [0xF#4] else []) ++ loadedRegs i

/-- The parts an instruction that takes no fault may write (R15, R16, R18, R20, R23, R38, R93). -/
def writtenParts : Instr → List Part
  | .cls | .drw _ _ _ => [.fb, .redraw]
  | .ret => [.sp]
  | .call _ => [.stack, .sp]
  | .ldI _ | .addI _ | .ldF _ | .ldVxMem _ => [.I]
  | .ldB _ => [.mem]
  | .ldMemVx _ => [.mem, .I]
  | .ldDtVx _ => [.DT]
  | .ldStVx _ => [.ST]
  | .rnd _ _ => [.draws]
  | _ => []

theorem mem_loadedRegs {x r : RegIdx} : r ∈ loadedRegs (.ldVxMem x) ↔ r.toNat ≤ x.toNat := by
  simp only [loadedRegs, List.mem_map, List.mem_range]
  constructor
  · rintro ⟨k, hk, rfl⟩
    have := Nat.mod_le k (2 ^ 4)
    simp only [BitVec.toNat_ofNat]
    omega
  · intro hle
    exact ⟨r.toNat, by omega, by simp⟩

/-- An instruction under the range check has its effect or takes `DATA_RANGE` (R37). -/
theorem next_withDataRange_cases {n : Nat} {u : State}
    (h : (Host.Outcome.next (withDataRange s n u) : Answer) = .next t) :
    ((n = 0 ∨ s.I.toNat + n ≤ Config.memSize) ∧ t = u) ∨
    (¬ (n = 0 ∨ s.I.toNat + n ≤ Config.memSize) ∧ t = s.raise .dataRange) := by
  cases h
  exact withDataRange_cases s n u

/-- Every instruction takes a fault and does nothing else, or writes at most what the tables list (R63, R132). -/
theorem exec_raise_or_frame (h : exec i s = .next t) :
    (∃ code, t = s.raise code) ∨ Frame (writtenRegs i) (writtenParts i) s t := by
  cases i with
  | sys nnn => cases h; exact .inr (Frame.refl.unrecognized _)
  | jp nnn | jpV0 nnn => cases h; exact .inr (Frame.refl.finishAt _)
  | seImm x nn | sneImm x nn | seReg x y | sneReg x y | skp x | sknp x => cases h; exact .inr (Frame.refl.skipIf _)
  | ret =>
    obtain ⟨-, rfl⟩ | ⟨d, u, -, -, hu, rfl⟩ := execRet_cases h
    · exact .inl ⟨_, rfl⟩
    · rw [hu]
      exact .inr (by simp [Frame, writtenParts, State.reg])
  | call nnn =>
    obtain ⟨-, rfl⟩ | ⟨d, u, -, -, -, hu, rfl⟩ := execCall_cases h
    · exact .inl ⟨_, rfl⟩
    · rw [hu]
      exact .inr (by simp [Frame, writtenParts, State.reg])
  | ldImm x nn | addImm x nn | ldReg x y | or x y | and x y | xor x y | ldVxDt x =>
    cases h; exact .inr (Frame.refl.writeResult (List.mem_singleton_self x) _)
  | rnd x nn =>
    cases h; exact .inr ((Frame.refl.countDraw (List.mem_singleton_self _)).writeResult (List.mem_singleton_self x) _)
  | addReg x y | sub x y | shr x y | subn x y | shl x y =>
    cases h
    have hx : x ∈ [x, 0xF#4] := List.mem_cons_self
    exact .inr (Frame.refl.writeResultAndFlag hx (List.mem_cons_of_mem x (List.mem_singleton_self _)) _ _)
  | ldVxK x =>
    obtain ⟨-, rfl⟩ | ⟨k, -, -, rfl⟩ := execLdVxK_cases h
    · exact .inr Frame.refl.stall
    · exact .inr (Frame.refl.writeResult (List.mem_singleton_self x) _)
  | cls => cases h; exact .inr (Frame.refl.setScreen (by decide) (by decide) _).advance
  | drw x y n =>
    obtain ⟨-, rfl⟩ | ⟨-, rfl⟩ := next_withDataRange_cases h
    · exact .inr ((Frame.refl.setScreen (by simp [writtenParts]) (by simp [writtenParts]) _).setFlag
        (List.mem_singleton_self _) _).advance
    · exact .inl ⟨_, rfl⟩
  | ldI nnn | ldF x => cases h; exact .inr (Frame.refl.setIndex (List.mem_singleton_self _) _).advance
  | addI x =>
    cases h
    exact .inr ((Frame.refl.setIndex (List.mem_singleton_self _) _).setFlag (List.mem_singleton_self _) _).advance
  | ldB x =>
    obtain ⟨-, rfl⟩ | ⟨-, rfl⟩ := next_withDataRange_cases h
    · exact .inr (Frame.refl.setMemory (List.mem_singleton_self _) _).advance
    · exact .inl ⟨_, rfl⟩
  | ldMemVx x =>
    obtain ⟨-, rfl⟩ | ⟨-, rfl⟩ := next_withDataRange_cases h
    · exact .inr ((Frame.refl.setMemory (by simp [writtenParts]) _).setIndex (by simp [writtenParts]) _).advance
    · exact .inl ⟨_, rfl⟩
  | ldVxMem x =>
    obtain ⟨-, rfl⟩ | ⟨-, rfl⟩ := next_withDataRange_cases h
    · have hx (r : RegIdx) : r.toNat ≤ x.toNat → r ∈ writtenRegs (.ldVxMem x) := mem_loadedRegs.mpr
      exact .inr ((Frame.refl.setRegsUpTo hx _).setIndex (List.mem_singleton_self _) _).advance
    · exact .inl ⟨_, rfl⟩
  | ldDtVx x => cases h; exact .inr (Frame.refl.setDelay (List.mem_singleton_self _) _).advance
  | ldStVx x => cases h; exact .inr (Frame.refl.setSound (List.mem_singleton_self _) _).advance

/-- The frame of every instruction, its faults included. -/
theorem exec_frame (h : exec i s = .next t) : Frame (writtenRegs i) (.fault :: writtenParts i) s t := by
  obtain ⟨code, rfl⟩ | hframe := exec_raise_or_frame h
  · exact Frame.refl.raise (by simp) code
  · exact hframe.mono (List.subset_cons_self _ _)

/-! ### The tables read by column -/

theorem eq_ldDtVx_of_DT_mem (h : Part.DT ∈ Part.fault :: writtenParts i) : ∃ x, i = .ldDtVx x := by
  cases i <;> simp [writtenParts] at h ⊢

theorem eq_ldStVx_of_ST_mem (h : Part.ST ∈ Part.fault :: writtenParts i) : ∃ x, i = .ldStVx x := by
  cases i <;> simp [writtenParts] at h ⊢

theorem key_notMem_writtenParts : Part.key ∉ Part.fault :: writtenParts i := by
  cases i <;> simp [writtenParts]

theorem eq_cls_or_drw_of_screen_mem
    (h : Part.fb ∈ Part.fault :: writtenParts i ∨ Part.redraw ∈ Part.fault :: writtenParts i) :
    i = .cls ∨ ∃ x y n, i = .drw x y n := by
  cases i <;> simp [writtenParts] at h ⊢

theorem eq_call_of_stack_mem (h : Part.stack ∈ Part.fault :: writtenParts i) : ∃ nnn, i = .call nnn := by
  cases i <;> simp [writtenParts] at h ⊢

theorem eq_ret_or_call_of_sp_mem (h : Part.sp ∈ Part.fault :: writtenParts i) : i = .ret ∨ ∃ nnn, i = .call nnn := by
  cases i <;> simp [writtenParts] at h ⊢

theorem writesIndex_of_I_mem (h : Part.I ∈ Part.fault :: writtenParts i) : writesIndex i = true := by
  cases i <;> simp [writtenParts, writesIndex] at h ⊢

theorem writesMemory_of_mem_mem (h : Part.mem ∈ Part.fault :: writtenParts i) : writesMemory i = true := by
  cases i <;> simp [writtenParts, writesMemory] at h ⊢

/-- Register load reaches the flag register with X = 0xF alone. -/
theorem eq_ldVxMem_of_flag_mem_loadedRegs (h : 0xF#4 ∈ loadedRegs i) : i = .ldVxMem 0xF#4 := by
  cases i with
  | ldVxMem x =>
    have hx : x = 0xF#4 := by
      have hle : 15 ≤ x.toNat := mem_loadedRegs.mp h
      bv_omega
    rw [hx]
  | _ => cases h

theorem flag_mem_writtenRegs (h : 0xF#4 ∈ writtenRegs i) :
    writesFlag i = true ∨ destination i = some 0xF#4 ∨ i = .ldVxMem 0xF#4 := by
  simp only [writtenRegs, List.mem_append, Option.mem_toList] at h
  obtain (hdest | hflag) | hload := h
  · exact .inr (.inl hdest)
  · exact .inl (by simpa using hflag)
  · exact .inr (.inr (eq_ldVxMem_of_flag_mem_loadedRegs hload))

/-! ### The only writers -/

/-- CLS and DRW set the redraw flag whenever they change it or the screen (R23, R110, R111). -/
theorem redraw_of_screen_changed (h : exec i s = .next t) (hi : i = .cls ∨ ∃ x y n, i = .drw x y n)
    (hne : t.fb ≠ s.fb ∨ t.redraw ≠ s.redraw) : t.redraw = true := by
  obtain rfl | ⟨x, y, n, rfl⟩ := hi
  · cases h; rfl
  · obtain ⟨-, rfl⟩ | ⟨-, rfl⟩ := next_withDataRange_cases h
    · rfl
    · simp at hne

/-- Settles O49: each timer stands in one row of the table, the keys in none. -/
theorem timersAndKeysHaveTheirOnlyWriters : Obligations.TimersAndKeysHaveTheirOnlyWriters := by
  intro i s t h
  obtain ⟨-, -, -, -, hDT, hST, -, -, hkey, -⟩ := exec_frame h
  exact ⟨fun hne => eq_ldDtVx_of_DT_mem (not_imp_comm.mp hDT hne),
    fun hne => eq_ldStVx_of_ST_mem (not_imp_comm.mp hST hne), hkey key_notMem_writtenParts⟩

/-- Settles O50, by the frame of the instruction; a framebuffer that differs differs in a cell. -/
theorem screenAndStackHaveTheirOnlyWriters : Obligations.ScreenAndStackHaveTheirOnlyWriters := by
  intro i s t h
  obtain ⟨-, -, hstack, hsp, -, -, -, hfb, -, hredraw, -⟩ := exec_frame h
  refine ⟨fun hne => ?_, fun hne => eq_call_of_stack_mem (not_imp_comm.mp hstack hne),
    fun hne => eq_ret_or_call_of_sp_mem (not_imp_comm.mp hsp hne)⟩
  have hi := eq_cls_or_drw_of_screen_mem
    (hne.imp (not_imp_comm.mp fun hn => fb_ext (hfb hn)) (not_imp_comm.mp hredraw))
  exact ⟨hi, redraw_of_screen_changed h hi hne⟩

/-- Settles O51, by the frame of the instruction. -/
theorem indexAndMemoryHaveTheirOnlyWriters : Obligations.IndexAndMemoryHaveTheirOnlyWriters := by
  intro i s t h
  obtain ⟨-, hI, -, -, -, -, hmem, -⟩ := exec_frame h
  refine ⟨fun hne => writesIndex_of_I_mem (not_imp_comm.mp hI hne), fun ⟨a, hne⟩ => ?_⟩
  exact writesMemory_of_mem_mem (not_imp_comm.mp (fun hn => hmem hn a) hne)

/-- Settles O52, by the frame of the instruction. -/
theorem flagRegisterHasItsOnlyWriters : Obligations.FlagRegisterHasItsOnlyWriters := by
  intro i s t h hne
  obtain ⟨hreg, -⟩ := exec_frame h
  exact flag_mem_writtenRegs (not_imp_comm.mp (hreg _) hne)

end Sys2Proof.Machine
end

section
/-! Control in range (spec/10_state.md R14, R70): where an instruction can leave `pc`, what it can put on the call
stack, and that every event keeps the bounds. -/

namespace Sys2Proof.Machine

variable {s t : State} {i : Instr}

/-- Where `pc` can stand after an instruction at `s.pc`: on it after a fault or a stall, behind it, behind the next
word, at a jump or call target, or behind a CALL that is returned from (R65, R70 to R77). -/
inductive NextPc (s : State) : Word → Prop where
  | same : NextPc s s.pc
  | next : NextPc s (s.pc + 2#16)
  | skip : NextPc s (s.pc + 4#16)
  | target (nnn : Addr12) : NextPc s (addrWord nnn)
  | offset (nnn : Addr12) : NextPc s (offsetTarget s nnn)
  | returned (d : Fin 16) : NextPc s (s.stack[d] + 2#16)

theorem nextPc_skipIf (c : Bool) : NextPc s (s.skipIf c).pc := by
  cases c
  · exact .next
  · exact .skip

theorem exec_nextPc (h : exec i s = .next t) : NextPc s t.pc := by
  cases i with
  | jp nnn => cases h; exact .target nnn
  | jpV0 nnn => cases h; exact .offset nnn
  | ret =>
    obtain ⟨-, rfl⟩ | ⟨d, u, -, -, -, rfl⟩ := execRet_cases h
    · exact .same
    · exact .returned d
  | call nnn =>
    obtain ⟨-, rfl⟩ | ⟨d, u, -, -, -, -, rfl⟩ := execCall_cases h
    · exact .same
    · exact .target nnn
  | seImm x nn | sneImm x nn | seReg x y | sneReg x y | skp x | sknp x => cases h; exact nextPc_skipIf _
  | ldVxK x =>
    obtain ⟨-, rfl⟩ | ⟨k, -, -, rfl⟩ := execLdVxK_cases h
    · exact .same
    · exact .next
  | drw x y n | ldB x | ldMemVx x | ldVxMem x =>
    obtain ⟨-, rfl⟩ | ⟨-, rfl⟩ := next_withDataRange_cases h
    · exact .next
    · exact .same
  | _ => cases h; exact .next

/-- From a fetchable `pc` no write of `pc` wraps, and the new value is one of R14. -/
theorem NextPc.toNat_le {a : Word} (h : NextPc s a) (hs : ControlInRange s) (hpc : s.pc.toNat ≤ 0xFFE) :
    a.toNat ≤ 0x10FE := by
  cases h with
  | same => omega
  | next | skip => rw [BitVec.toNat_add, BitVec.toNat_ofNat]; omega
  | target nnn => have := nnn.isLt; rw [addrWord_toNat]; omega
  | offset nnn =>
    have := nnn.isLt
    have := (s.reg 0x0#4).isLt
    rw [offsetTarget_toNat]
    omega
  | returned d =>
    have := hs.1 d
    rw [BitVec.toNat_add, BitVec.toNat_ofNat]
    omega

/-- A stack entry holds what it held, or the address of the instruction, a CALL (R72). -/
theorem exec_stack (h : exec i s = .next t) (j : Fin 16) : t.stack[j] = s.stack[j] ∨ t.stack[j] = s.pc := by
  obtain ⟨-, -, hstack, -⟩ := exec_frame h
  by_cases hp : Part.stack ∈ Part.fault :: writtenParts i
  · obtain ⟨nnn, rfl⟩ := eq_call_of_stack_mem hp
    obtain ⟨-, rfl⟩ | ⟨d, u, -, -, hu, -, rfl⟩ := execCall_cases h
    · exact .inl rfl
    · by_cases hd : d.val = j.val <;> simp [hu, hd]
  · rw [hstack hp]
    exact .inl rfl

theorem ControlInRange.congr (hs : ControlInRange s) (hstack : t.stack = s.stack) (hpc : t.pc = s.pc) :
    ControlInRange t := by
  rwa [ControlInRange, hstack, hpc]

theorem controlInRange_reset : ControlInRange State.reset := ⟨by decide, by decide⟩

theorem exec_controlInRange (hs : ControlInRange s) (hpc : s.pc.toNat ≤ 0xFFE) (h : exec i s = .next t) :
    ControlInRange t := by
  refine ⟨fun j => ?_, (exec_nextPc h).toNat_le hs hpc⟩
  obtain e | e := exec_stack h j <;> rw [e]
  · exact hs.1 j
  · exact hpc

theorem step_controlInRange (hs : ControlInRange s) (h : step s = .next t) : ControlInRange t := by
  obtain ⟨-, rfl⟩ | ⟨-, -, rfl⟩ | ⟨-, hpc, w, -, rfl⟩ | ⟨-, hpc, i, -, hi⟩ := step_cases h
  · exact hs
  · exact hs
  · exact ⟨hs.1, NextPc.next.toNat_le hs hpc⟩
  · exact exec_controlInRange hs hpc hi

theorem handle_controlInRange (e : Event) (hs : ControlInRange s) (h : handle e s = .next t) : ControlInRange t := by
  cases e with
  | reset => cases h; exact controlInRange_reset
  | load bytes =>
    cases h
    by_cases hl : bytes.length ≤ Config.progMax
    · rw [loadProgram_ok s hl]; exact hs
    · rw [loadProgram_error s (by omega)]; exact hs
  | step => exact step_controlInRange hs h
  | tick | keyWrite k b | redrawAck => cases h; exact hs

/-- Settles O48: only a step moves `pc` or fills a stack entry, and it executes at a `pc` of at most 0xFFE alone. -/
theorem everyEventKeepsControlInRange : Obligations.EveryEventKeepsControlInRange :=
  ⟨fun _ _ => step_controlInRange, fun e _ _ => handle_controlInRange e⟩

/-- Settles O46: memory lists nothing, the stack is all zero and `pc` is 0x200. -/
theorem resetMeetsTheInvariants : Obligations.ResetMeetsTheInvariants := ⟨Memory.wf_nil, controlInRange_reset⟩

/-- Settles O45: memory lists nothing after RESET, so the font table and the fill are read. -/
theorem resetGivesTheTableOfResetValues : Obligations.ResetGivesTheTableOfResetValues := by
  intro s
  have hstack : ∀ j : Fin 16, State.reset.stack[j] = 0#16 := by decide
  have hkey : ∀ k : Fin 16, State.reset.key[k] = false := by decide
  exact ⟨resetEvent s, rfl, reset_reg, rfl, rfl, rfl, hstack, rfl, rfl, read_reset_font,
    fun a _ => read_reset_fill a, fun j _ => fbCell_clear j, hkey, rfl, rfl⟩

end Sys2Proof.Machine
end

section
/-! The sound timer and the redraw flag are written and never read (spec/10_state.md R18, R23): an instruction runs
the same on two states that differ in these two alone. -/

namespace Sys2Proof.Machine

variable {s t : State} {v : Byte} {b : Bool}

/-- `s` with other values of ST and the redraw flag. -/
def State.setUnread (s : State) (v : Byte) (b : Bool) : State := { s with ST := v, redraw := b }

theorem State.pop_setUnread : (s.setUnread v b).pop = s.pop.map fun p => (p.1, p.2.setUnread v b) := by
  by_cases h : s.sp.val = 0 <;> simp [State.pop, State.setUnread, h]

theorem State.push_setUnread (a : Word) : (s.setUnread v b).push a = (s.push a).map (·.setUnread v b) := by
  by_cases h : s.sp.val < 16 <;> simp [State.push, State.setUnread, h]

theorem execRet_setUnread (h : execRet s = .next t) : execRet (s.setUnread v b) = .next (t.setUnread v b) := by
  rw [execRet, State.pop_setUnread]
  unfold execRet at h
  cases hp : s.pop with
  | none => rw [hp] at h; cases h; rfl
  | some p => rw [hp] at h; cases h; rfl

theorem execCall_setUnread {nnn : Addr12} (h : execCall nnn s = .next t) :
    execCall nnn (s.setUnread v b) = .next (t.setUnread v b) := by
  have hpush : (s.setUnread v b).push (s.setUnread v b).pc = (s.push s.pc).map (·.setUnread v b) :=
    State.push_setUnread s.pc
  rw [execCall, hpush]
  unfold execCall at h
  cases hp : s.push s.pc with
  | none => rw [hp] at h; cases h; rfl
  | some u => rw [hp] at h; cases h; rfl

theorem execLdVxK_setUnread {x : RegIdx} (h : execLdVxK x s = .next t) :
    execLdVxK x (s.setUnread v b) = .next (t.setUnread v b) := by
  have hkey : (s.setUnread v b).lowestKey = s.lowestKey := rfl
  rw [execLdVxK, hkey]
  unfold execLdVxK at h
  cases hk : s.lowestKey with
  | none => rw [hk] at h; cases h; rfl
  | some k => rw [hk] at h; cases h; rfl

/-- The range check reads `I` alone. -/
theorem next_withDataRange_setUnread {u : State} {n : Nat} (w : Byte) (c : Bool)
    (h : (Host.Outcome.next (withDataRange s n u) : Answer) = .next t) :
    ∃ v' b', (Host.Outcome.next (withDataRange (s.setUnread v b) n (u.setUnread w c)) : Answer) =
      .next (t.setUnread v' b') := by
  obtain ⟨hok, rfl⟩ | ⟨hout, rfl⟩ := next_withDataRange_cases h
  · exact ⟨w, c, congrArg _ (withDataRange_ok (s.setUnread v b) _ hok)⟩
  · exact ⟨v, b, congrArg _ (withDataRange_trap (s.setUnread v b) _ hout)⟩

theorem exec_setUnread {i : Instr} (h : exec i s = .next t) :
    ∃ v' b', exec i (s.setUnread v b) = .next (t.setUnread v' b') := by
  cases i with
  | ret => exact ⟨v, b, execRet_setUnread h⟩
  | call nnn => exact ⟨v, b, execCall_setUnread h⟩
  | ldVxK x => exact ⟨v, b, execLdVxK_setUnread h⟩
  | cls => cases h; exact ⟨v, true, rfl⟩
  | ldStVx x => cases h; exact ⟨s.reg x, b, rfl⟩
  | drw x y n =>
    obtain ⟨v', b', e⟩ := next_withDataRange_setUnread (v := v) (b := b) v true h
    exact ⟨v', b', e⟩
  | ldB x | ldMemVx x | ldVxMem x =>
    obtain ⟨v', b', e⟩ := next_withDataRange_setUnread (v := v) (b := b) v b h
    exact ⟨v', b', e⟩
  | _ => cases h; exact ⟨v, b, rfl⟩

/-- Settles O58: `setUnread` passes through every instruction, and only CLS, DRW and LD_ST_Vx overwrite its values. -/
theorem soundTimerAndRedrawAreNeverRead : Obligations.SoundTimerAndRedrawAreNeverRead :=
  fun _ _ _ _ _ h => exec_setUnread h

end Sys2Proof.Machine
end

section
/-! Main memory under every event (spec/20_memory.md R30, R37, R38, R42): an instruction leaves memory as it is or
stores one block inside it, and a dumped block is what the next fetch reads. -/

namespace Sys2Proof.Machine

variable {s t : State} {i : Instr}

/-- `m'` is `m`, or `m` with a block of bytes from `a` stored, all of it below 4096 (R37, R38). -/
inductive Memory.Stored (m : Memory) (a : Nat) : Memory → Prop where
  | unchanged : Stored m a m
  | block (bs : List Byte) (h : a + bs.length ≤ Config.memSize) : Stored m a (writeBytes m a bs)

theorem Memory.Stored.wf {m m' : Memory} {a : Nat} (h : m.Stored a m') (hm : m.wf = true) : m'.wf = true := by
  cases h with
  | unchanged => exact hm
  | block bs hbs => exact wf_writeBytes m a bs (.inr hbs) hm

/-- What each instruction does to memory: LD_B and LD_mem_Vx store a block at `I` once the range check has passed, the
others leave the list of entries as it is. -/
theorem exec_stored (h : exec i s = .next t) : s.mem.Stored s.I.toNat t.mem := by
  cases i with
  | ret =>
    obtain ⟨-, rfl⟩ | ⟨d, u, -, -, hu, rfl⟩ := execRet_cases h
    · exact .unchanged
    · rw [hu]; exact .unchanged
  | call nnn =>
    obtain ⟨-, rfl⟩ | ⟨d, u, -, -, -, hu, rfl⟩ := execCall_cases h
    · exact .unchanged
    · rw [hu]; exact .unchanged
  | ldVxK x => obtain ⟨-, rfl⟩ | ⟨k, -, -, rfl⟩ := execLdVxK_cases h <;> exact .unchanged
  | drw x y n | ldVxMem x => obtain ⟨-, rfl⟩ | ⟨-, rfl⟩ := next_withDataRange_cases h <;> exact .unchanged
  | ldB x =>
    obtain ⟨hok, rfl⟩ | ⟨-, rfl⟩ := next_withDataRange_cases h
    · exact .block (bcdDigits (s.reg x)) (hok.resolve_left (by decide))
    · exact .unchanged
  | ldMemVx x =>
    obtain ⟨hok, rfl⟩ | ⟨-, rfl⟩ := next_withDataRange_cases h
    · exact .block (s.regsUpTo x) (by simpa [transferCount] using hok)
    · exact .unchanged
  | _ => cases h; exact .unchanged

/-- Outside the execution of an instruction a step does not touch memory (R60, R61, R64). -/
theorem step_stored (h : step s = .next t) : s.mem.Stored s.I.toNat t.mem := by
  obtain ⟨-, rfl⟩ | ⟨-, -, rfl⟩ | ⟨-, -, w, -, rfl⟩ | ⟨-, -, i, -, hi⟩ := step_cases h
  · exact .unchanged
  · exact .unchanged
  · exact .unchanged
  · exact exec_stored hi

theorem handle_wf (e : Event) (hs : s.mem.wf = true) (h : handle e s = .next t) : t.mem.wf = true := by
  cases e with
  | reset => cases h; exact Memory.wf_nil
  | load bytes => cases h; exact wf_loadProgram s bytes hs
  | step => exact (step_stored h).wf hs
  | tick | keyWrite k b | redrawAck => cases h; exact hs

/-- Settles O47: RESET empties memory, and every other event stores at most one block inside it. -/
theorem everyEventKeepsMemoryCanonical : Obligations.EveryEventKeepsMemoryCanonical :=
  ⟨fun _ _ hs h => (step_stored h).wf hs, fun e _ _ => handle_wf e⟩

/-- A register dump in range stores the registers 0 to X and moves `I` past them (R104). -/
theorem exec_ldMemVx_ok {x : RegIdx} (hI : s.I.toNat + x.toNat ≤ 0xFFF) :
    exec (.ldMemVx x) s = .next ((s.setMemory (writeBytes s.mem s.I.toNat (s.regsUpTo x))).setIndex
      (indexPlus s (transferCount x))).advance := by
  have hok : s.I.toNat + transferCount x ≤ Config.memSize := by
    simp only [transferCount, Config.memSize]; omega
  exact congrArg _ (withDataRange_ok s _ (.inr hok))

/-- After a register dump in range, `V[k]` stands at `I + k` (R104). -/
theorem read_of_exec_ldMemVx {x : RegIdx} {k : Nat} (hI : s.I.toNat + x.toNat ≤ 0xFFF)
    (h : exec (.ldMemVx x) s = .next t) (hk : k ≤ x.toNat) :
    t.mem.read (s.I.toNat + k) = s.reg (BitVec.ofNat 4 k) := by
  have hlen : k < (s.regsUpTo x).length := by rw [State.regsUpTo_length]; omega
  rw [exec_ldMemVx_ok hI] at h
  cases h
  exact (writeBytes_read_inside s.mem s.I.toNat _ k hlen).trans (s.regsUpTo_getElem x k hlen)

/-- Settles O32: the fetch reads the bytes at `I + k` and `I + k + 1`, both of them dumped. -/
theorem dumpedCodeIsFetchedAsStored : Obligations.DumpedCodeIsFetchedAsStored := by
  intro x s t k hI h hk hpc
  have hhigh := read_of_exec_ldMemVx hI h (Nat.le_of_lt hk)
  have hlow := read_of_exec_ldMemVx hI h (Nat.succ_le_of_lt hk)
  rw [fetchDecode, hpc, hhigh, Nat.add_assoc, hlow]

end Sys2Proof.Machine
end

section
/-! Every instruction's word selects the row of its name: the cases of Laws/PerInstr.lean together (R49). -/

namespace Sys2Proof.Laws.OpcodeMap

theorem statement : ∀ i : Instr, Statement i
  | .cls => cls | .ret => ret | .sys nnn => sys nnn | .jp nnn => jp nnn | .call nnn => call nnn
  | .seImm x nn => seImm x nn | .sneImm x nn => sneImm x nn | .seReg x y => seReg x y
  | .ldImm x nn => ldImm x nn | .addImm x nn => addImm x nn | .ldReg x y => ldReg x y
  | .or x y => or x y | .and x y => and x y | .xor x y => xor x y | .addReg x y => addReg x y
  | .sub x y => sub x y | .shr x y => shr x y | .subn x y => subn x y | .shl x y => shl x y
  | .sneReg x y => sneReg x y | .ldI nnn => ldI nnn | .jpV0 nnn => jpV0 nnn | .rnd x nn => rnd x nn
  | .drw x y n => drw x y n | .skp x => skp x | .sknp x => sknp x | .ldVxDt x => ldVxDt x
  | .ldVxK x => ldVxK x | .ldDtVx x => ldDtVx x | .ldStVx x => ldStVx x | .addI x => addI x
  | .ldF x => ldF x | .ldB x => ldB x | .ldMemVx x => ldMemVx x | .ldVxMem x => ldVxMem x

end Sys2Proof.Laws.OpcodeMap
end

section
/-! Decoder and encoder (spec/30_encoding.md R49 to R52): each undoes the other, and what the decoder rejects is what
the opcode map has no row for. -/

namespace Sys2Proof

variable {w : Word} {i : Instr}

/-! ### The decoder reads back an encoded instruction -/

theorem decode_address {a : Nibble} (nnn : Addr12) (ha : a ≠ 0x0#4) : decode (a ++ nnn) = decodeFamily (a ++ nnn) :=
  decode_of_fieldOp_ne_zero (by rwa [fieldOp_address])

theorem decode_immediate {a : Nibble} (x : RegIdx) (nn : Byte) (ha : a ≠ 0x0#4) :
    decode (a ++ x ++ nn) = decodeFamily (a ++ x ++ nn) :=
  decode_of_fieldOp_ne_zero (by rwa [fieldOp_immediate])

theorem decode_nibbles {a : Nibble} (x y : RegIdx) (n : Nibble) (ha : a ≠ 0x0#4) :
    decode (a ++ x ++ y ++ n) = decodeFamily (a ++ x ++ y ++ n) :=
  decode_of_fieldOp_ne_zero (by rwa [fieldOp_nibbles])

theorem sysWord_inj {nnn m : Addr12} : (0x0#4 ++ nnn : Word) = 0x0#4 ++ m ↔ nnn = m :=
  ⟨fun h => by simpa only [fieldNNN_address] using congrArg fieldNNN h, congrArg _⟩

/-- SYS is well formed on every word of family 0 but those of CLS and RET. -/
theorem wf_sys_iff {nnn : Addr12} :
    (Instr.sys nnn).wf = true ↔ 0x0#4 ++ nnn ≠ 0x00E0#16 ∧ 0x0#4 ++ nnn ≠ 0x00EE#16 := by
  rw [show 0x00E0#16 = 0x0#4 ++ 0x0E0#12 from rfl, show 0x00EE#16 = 0x0#4 ++ 0x0EE#12 from rfl, Ne, Ne, sysWord_inj,
    sysWord_inj]
  simp [Instr.wf]

theorem decode_sysWord {nnn : Addr12} (h : (Instr.sys nnn).wf = true) : decode (0x0#4 ++ nnn) = .ok (.sys nnn) := by
  obtain ⟨hcls, hret⟩ := wf_sys_iff.mp h
  rw [decode, if_neg hcls, if_neg hret]
  simp [decodeFamily, fieldOp_address, fieldNNN_address]

theorem decode_encode (h : i.wf = true) : decode (encode i) = .ok i := by
  cases i with
  | cls | ret => rfl
  | sys nnn => exact decode_sysWord h
  | jp nnn | call nnn | ldI nnn | jpV0 nnn =>
    simp [encode, decode_address, decodeFamily, fieldOp_address, fieldNNN_address]
  | seImm x nn | sneImm x nn | ldImm x nn | addImm x nn | rnd x nn =>
    simp [encode, decode_immediate, decodeFamily, fieldOp_immediate, fieldX_immediate, fieldNN_immediate]
  | skp x | sknp x =>
    simp [encode, decode_immediate, decodeFamily, decodeFamilyE, fieldOp_immediate, fieldX_immediate,
      fieldNN_immediate]
  | ldVxDt x | ldVxK x | ldDtVx x | ldStVx x | addI x | ldF x | ldB x | ldMemVx x | ldVxMem x =>
    simp [encode, decode_immediate, decodeFamily, decodeFamilyF, fieldOp_immediate, fieldX_immediate,
      fieldNN_immediate]
  | seReg x y | sneReg x y | drw x y n =>
    simp [encode, decode_nibbles, decodeFamily, fieldOp_nibbles, fieldX_nibbles, fieldY_nibbles, fieldN_nibbles]
  | ldReg x y | or x y | and x y | xor x y | addReg x y | sub x y | shr x y | subn x y | shl x y =>
    simp [encode, decode_nibbles, decodeFamily, decodeFamily8, fieldOp_nibbles, fieldX_nibbles, fieldY_nibbles,
      fieldN_nibbles]

/-- Settles O1: the word of each instruction has one of three shapes, and its fields give the operands back. -/
theorem decodeOfEncodeGivesTheInstruction : Obligations.DecodeOfEncodeGivesTheInstruction := fun _ => decode_encode

/-! ### What the decoder can answer -/

theorem address_eq_of_field {a : Nibble} (hop : fieldOp w = a) : a ++ fieldNNN w = w := by
  rw [← hop, word_eq_address]

theorem immediate_eq_of_fields {a : Nibble} {nn : Byte} (hop : fieldOp w = a) (hnn : fieldNN w = nn) :
    a ++ fieldX w ++ nn = w := by
  rw [← hop, ← hnn, word_eq_immediate]

theorem nibbles_eq_of_fields {a n : Nibble} (hop : fieldOp w = a) (hn : fieldN w = n) :
    a ++ fieldX w ++ fieldY w ++ n = w := by
  rw [← hop, ← hn, word_eq_nibbles]

/-- The unrecognized words without a row, family by family (R52). -/
def Rowless (w : Word) : Prop :=
  (fieldOp w = 0x5#4 ∧ fieldN w ≠ 0x0#4) ∨
  (fieldOp w = 0x8#4 ∧ fieldN w ∈ [0x8#4, 0x9#4, 0xA#4, 0xB#4, 0xC#4, 0xD#4, 0xF#4]) ∨
  (fieldOp w = 0x9#4 ∧ fieldN w ≠ 0x0#4) ∨
  (fieldOp w = 0xE#4 ∧ fieldNN w ∉ [0x9E#8, 0xA1#8]) ∨
  (fieldOp w = 0xF#4 ∧ fieldNN w ∉ [0x07#8, 0x0A#8, 0x15#8, 0x18#8, 0x1E#8, 0x29#8, 0x33#8, 0x55#8, 0x65#8])

/-- The family decides which of the low nibble and the low byte the question whether a word has a row reads. -/
theorem rowless_congr {v : Word} (hop : fieldOp v = fieldOp w)
    (hn : fieldOp w ∈ [0x5#4, 0x8#4, 0x9#4] → fieldN v = fieldN w)
    (hnn : fieldOp w ∈ [0xE#4, 0xF#4] → fieldNN v = fieldNN w) : Rowless v ↔ Rowless w := by
  unfold Rowless
  rw [hop]
  refine or_congr (and_congr_right fun h5 => ?_) <| or_congr (and_congr_right fun h8 => ?_) <|
    or_congr (and_congr_right fun h9 => ?_) <| or_congr (and_congr_right fun hE => ?_) (and_congr_right fun hF => ?_)
  · rw [hn (by simp [h5])]
  · rw [hn (by simp [h8])]
  · rw [hn (by simp [h9])]
  · rw [hnn (by simp [hE])]
  · rw [hnn (by simp [hF])]

/-- The answers the decoder may give for `w`: the instruction `w` is the word of, or the rejection of a word
without a row. -/
inductive Answers (w : Word) : Except DecodeReject Instr → Prop where
  | ok {i : Instr} (hwf : i.wf = true) (hw : encode i = w) (hrow : ¬ Rowless w) : Answers w (.ok i)
  | error (hrow : Rowless w) : Answers w (.error (.unrecognized w))

theorem decodeFamily8_answers (hop : fieldOp w = 0x8#4) : Answers w (decodeFamily8 w) := by
  unfold decodeFamily8
  split
  case h_10 =>
    refine .error (.inr (.inl ⟨hop, ?_⟩))
    generalize fieldN w = n at *
    revert n
    decide
  all_goals
    next hn => exact .ok rfl (nibbles_eq_of_fields hop hn) (by simp [Rowless, hop, hn])

theorem decodeFamilyE_answers (hop : fieldOp w = 0xE#4) : Answers w (decodeFamilyE w) := by
  unfold decodeFamilyE
  split
  case h_3 h9E hA1 => exact .error (.inr (.inr (.inr (.inl ⟨hop, by simpa using ⟨h9E, hA1⟩⟩))))
  all_goals
    next hnn => exact .ok rfl (immediate_eq_of_fields hop hnn) (by simp [Rowless, hop, hnn])

theorem decodeFamilyF_answers (hop : fieldOp w = 0xF#4) : Answers w (decodeFamilyF w) := by
  unfold decodeFamilyF
  split
  case h_10 => exact .error (.inr (.inr (.inr (.inr ⟨hop, by simp_all⟩))))
  all_goals
    next hnn => exact .ok rfl (immediate_eq_of_fields hop hnn) (by simp [Rowless, hop, hnn])

/-- The split's case `h_k` is family `k - 1`. -/
theorem decodeFamily_answers (hcls : w ≠ 0x00E0#16) (hret : w ≠ 0x00EE#16) : Answers w (decodeFamily w) := by
  unfold decodeFamily
  split
  case h_1 hop =>
    have hw := address_eq_of_field hop
    exact .ok (wf_sys_iff.mpr (by rw [hw]; exact ⟨hcls, hret⟩)) hw (by simp [Rowless, hop])
  case h_2 hop | h_3 hop | h_11 hop | h_12 hop => exact .ok rfl (address_eq_of_field hop) (by simp [Rowless, hop])
  case h_4 hop | h_5 hop | h_7 hop | h_8 hop | h_13 hop =>
    exact .ok rfl (immediate_eq_of_fields hop rfl) (by simp [Rowless, hop])
  case h_14 hop => exact .ok rfl (nibbles_eq_of_fields hop rfl) (by simp [Rowless, hop])
  case h_6 hop | h_10 hop =>
    split
    · next hn => exact .ok rfl (nibbles_eq_of_fields hop hn) (by simp [Rowless, hop, hn])
    · next hn => exact .error (by simp [Rowless, hop, hn])
  case h_9 hop => exact decodeFamily8_answers hop
  case h_15 hop => exact decodeFamilyE_answers hop
  case h_16 =>
    refine decodeFamilyF_answers ?_
    generalize fieldOp w = a at *
    revert a
    decide

theorem decode_answers (w : Word) : Answers w (decode w) := by
  unfold decode
  split
  · next hw => exact .ok rfl hw.symm (by simp [Rowless, hw, fieldOp])
  split
  · next hw => exact .ok rfl hw.symm (by simp [Rowless, hw, fieldOp])
  · next hcls hret => exact decodeFamily_answers hcls hret

theorem decode_eq_ok_iff : decode w = .ok i ↔ i.wf = true ∧ encode i = w := by
  refine ⟨fun h => ?_, fun ⟨hwf, hw⟩ => hw ▸ decode_encode hwf⟩
  have ha := decode_answers w
  rw [h] at ha
  cases ha with
  | ok hwf hw _ => exact ⟨hwf, hw⟩

theorem decode_eq_error_iff {r : DecodeReject} : decode w = .error r ↔ r = .unrecognized w ∧ Rowless w := by
  have ha := decode_answers w
  generalize decode w = d at ha
  cases ha with
  | ok _ _ hrow => simp [hrow]
  | error hrow => simp [hrow, eq_comm]

/-- Settles O2: of the decoder's two answers, an instruction is one that `w` is the word of. -/
theorem encodeOfDecodeGivesTheWord : Obligations.EncodeOfDecodeGivesTheWord := fun _ _ => decode_eq_ok_iff.mp

/-- Settles O4: SYS by its word, the rejected words by the decoder's other answer. -/
theorem unrecognizedWordsAreThoseOfTheFamilyTable : Obligations.UnrecognizedWordsAreThoseOfTheFamilyTable := by
  refine fun w => ⟨?_, decode_eq_error_iff.trans (and_iff_right rfl)⟩
  rw [decode_eq_ok_iff, wf_sys_iff]
  constructor
  · rintro ⟨hwf, hw⟩
    change 0x0#4 ++ fieldNNN w = w at hw
    rw [hw] at hwf
    exact ⟨by rw [← hw, fieldOp_address], hwf⟩
  · rintro ⟨hop, hne⟩
    have hw := address_eq_of_field hop
    exact ⟨hw.symm ▸ hne, hw⟩

/-! ### The rows of the opcode map -/

theorem fieldOp_and (v w : Word) : fieldOp (v &&& w) = fieldOp v &&& fieldOp w := BitVec.extractLsb'_and

theorem fieldN_and (v w : Word) : fieldN (v &&& w) = fieldN v &&& fieldN w := BitVec.extractLsb'_and

theorem fieldNN_and (v w : Word) : fieldNN (v &&& w) = fieldNN v &&& fieldNN w := BitVec.extractLsb'_and

/-- The word selects the row by mask and match (R49). -/
def OpcodeRow.Selects (r : OpcodeRow) (w : Word) : Prop := w &&& r.mask = r.pattern

/-- A row fixes the family of the words it selects, in families 5, 8 and 9 the low nibble too, in E and F the low
byte (R49). -/
theorem mask_fixes : ∀ r ∈ opcodeMap, fieldOp r.mask = 0xF#4 ∧
    (fieldOp r.pattern ∈ [0x5#4, 0x8#4, 0x9#4] → fieldN r.mask = 0xF#4) ∧
    (fieldOp r.pattern ∈ [0xE#4, 0xF#4] → fieldNN r.mask = 0xFF#8) := by decide

theorem not_rowless_pattern : ∀ r ∈ opcodeMap, ¬ Rowless r.pattern := by
  unfold Rowless
  decide

theorem OpcodeRow.Selects.not_rowless {r : OpcodeRow} (h : r.Selects w) (hr : r ∈ opcodeMap) : ¬ Rowless w := by
  obtain ⟨hmop, hmn, hmnn⟩ := mask_fixes r hr
  have hop : fieldOp r.pattern = fieldOp w := by rw [← h, fieldOp_and, hmop]; exact BitVec.and_allOnes
  have hn (hf : fieldOp w ∈ [0x5#4, 0x8#4, 0x9#4]) : fieldN r.pattern = fieldN w := by
    rw [← h, fieldN_and, hmn (hop ▸ hf)]; exact BitVec.and_allOnes
  have hnn (hf : fieldOp w ∈ [0xE#4, 0xF#4]) : fieldNN r.pattern = fieldNN w := by
    rw [← h, fieldNN_and, hmnn (hop ▸ hf)]; exact BitVec.and_allOnes
  rw [← rowless_congr hop hn hnn]
  exact not_rowless_pattern r hr

/-- The rows after CLS and RET have no word in common: on the bits that both of two rows fix, their patterns differ. -/
theorem rows_disjoint : ∀ r ∈ opcodeMap.drop 2, ∀ r' ∈ opcodeMap.drop 2,
    r.pattern &&& r'.mask = r'.pattern &&& r.mask → r = r' := by decide

theorem OpcodeRow.Selects.pattern_and_mask {r r' : OpcodeRow} (h : r.Selects w) (h' : r'.Selects w) :
    r.pattern &&& r'.mask = r'.pattern &&& r.mask := by
  rw [← h, ← h', BitVec.and_assoc, BitVec.and_assoc, BitVec.and_comm r.mask]

theorem OpcodeRow.Selects.mem_drop {r : OpcodeRow} (h : r.Selects w) (hr : r ∈ opcodeMap) (hcls : w ≠ 0x00E0#16)
    (hret : w ≠ 0x00EE#16) : r ∈ opcodeMap.drop 2 := by
  have hfull : w &&& 0xFFFF#16 = w := BitVec.and_allOnes
  obtain _ | ⟨_, _ | ⟨_, hr⟩⟩ := hr
  · exact absurd (hfull.symm.trans h) hcls
  · exact absurd (hfull.symm.trans h) hret
  · exact hr

theorem OpcodeRow.Selects.selectedRow_eq_some {r : OpcodeRow} (h : r.Selects w) (hr : r ∈ opcodeMap)
    (hcls : w ≠ 0x00E0#16) (hret : w ≠ 0x00EE#16) : selectedRow w = some r := by
  have hsome : (selectedRow w).isSome := List.find?_isSome.mpr ⟨r, hr, beq_iff_eq.mpr h⟩
  obtain ⟨r', hfind⟩ := Option.isSome_iff_exists.mp hsome
  have hr' : r' ∈ opcodeMap := List.mem_of_find?_eq_some hfind
  have h' : r'.Selects w := beq_iff_eq.mp (List.find?_some hfind :)
  rw [hfind, rows_disjoint r' (h'.mem_drop hr' hcls hret) r (h.mem_drop hr hcls hret) (h'.pattern_and_mask h)]

theorem Rowless.selectedRow_eq_none (h : Rowless w) : selectedRow w = none :=
  List.find?_eq_none.mpr fun _ hr hsel => OpcodeRow.Selects.not_rowless (beq_iff_eq.mp hsel) hr h

theorem encode_inj {j : Instr} (hi : i.wf = true) (hj : j.wf = true) (h : encode i = encode j) : i = j :=
  Except.ok.inj ((decode_encode hi).symm.trans (h ▸ decode_encode hj))

theorem mnemonic_selectedRow_encode (hwf : i.wf = true) :
    (selectedRow (encode i)).map OpcodeRow.mnemonic = some (mnemonic i) := by
  by_cases hcls : i = .cls
  · subst hcls; rfl
  by_cases hret : i = .ret
  · subst hret; rfl
  obtain ⟨r, hr, hname, hsel⟩ := Laws.OpcodeMap.statement i
  have hsel : r.Selects (encode i) := hsel
  rw [hsel.selectedRow_eq_some hr (mt (encode_inj (j := .cls) hwf rfl) hcls)
    (mt (encode_inj (j := .ret) hwf rfl) hret), Option.map_some, hname]

/-- Settles O3: a decoded word selects the row of its instruction, a rejected one none. -/
theorem decodeChoosesTheRowOfTheOpcodeMap : Obligations.DecodeChoosesTheRowOfTheOpcodeMap := by
  intro w
  have ha := decode_answers w
  generalize decode w = d at ha
  cases ha with
  | ok hwf hw _ => subst hw; exact (mnemonic_selectedRow_encode hwf).symm
  | error hrow => rw [hrow.selectedRow_eq_none]; rfl

/-- Settles O5: seven words are those of their instructions; the eighth is in family F and ends in no byte of it. -/
theorem sampleWordsDecodeAsTheSpecSays : Obligations.SampleWordsDecodeAsTheSpecSays :=
  ⟨decode_encode (i := .ldImm 0x0#4 0x05#8) rfl, decode_encode (i := .ldI 0x050#12) rfl,
    decode_encode (i := .drw 0x0#4 0x0#4 0x5#4) rfl, decode_encode (i := .ret) rfl,
    decode_encode (i := .shr 0x3#4 0xA#4) rfl, decode_encode (i := .sknp 0x4#4) rfl,
    decode_encode (i := .ldVxMem 0x2#4) rfl,
    decode_eq_error_iff.mpr ⟨rfl, .inr (.inr (.inr (.inr ⟨rfl, by decide⟩)))⟩⟩

end Sys2Proof
end

section
/-! The step and the dispatcher (spec/40_step_and_dispatch.md R60 to R66): each outcome of a step, that there is one in
every state, and the ways an instruction ends. -/

namespace Sys2Proof.Machine

variable {s t : State} {i : Instr}

/-! ### Each outcome of a step -/

/-- Settles O6: with no fault and `pc` in range a step is the decoded instruction's execution. -/
theorem stepRunsTheDecodedInstruction : Obligations.StepRunsTheDecodedInstruction :=
  fun _ _ => step_of_decode

/-- Settles O7: SYS and a rejected word end alike, in `State.unrecognized` of the word at `pc`. -/
theorem unrecognizedWordReportsAndAdvances : Obligations.UnrecognizedWordReportsAndAdvances := by
  refine ⟨fun nnn s => ⟨s.unrecognized (sysWord nnn), rfl, rfl, rfl, Frame.refl.unrecognized _⟩, ?_⟩
  intro s w hf hpc hw hd
  have hfetch : fetchDecode s = .error (.unrecognized w) := by rw [fetchDecode_eq, ← hw, hd]
  exact ⟨s.unrecognized w, step_of_reject hf hpc hfetch, rfl, rfl, Frame.refl.unrecognized w⟩

/-- Settles O8: the fault is raised on the state the step began with. -/
theorem fetchAboveMemoryTakesFetchRange : Obligations.FetchAboveMemoryTakesFetchRange :=
  fun s hf hpc => ⟨s.raise .fetchRange, step_of_pc_out hf hpc, rfl, rfl, rfl,
    Frame.refl.raise (List.mem_singleton_self _) _⟩

/-- Settles O9: under a standing fault a step writes its result alone. -/
theorem standingFaultStopsEveryStep : Obligations.StandingFaultStopsEveryStep :=
  fun s hf => ⟨s.standStill, step_of_fault hf, rfl, rfl, Frame.refl⟩

/-! ### Every event answers a next state -/

theorem exec_next (i : Instr) (s : State) : ∃ t, exec i s = .next t := by
  cases i with
  | ret => rw [exec, execRet]; cases s.pop <;> exact ⟨_, rfl⟩
  | call nnn => rw [exec, execCall]; cases s.push s.pc <;> exact ⟨_, rfl⟩
  | ldVxK x => rw [exec, execLdVxK]; cases s.lowestKey <;> exact ⟨_, rfl⟩
  | _ => exact ⟨_, rfl⟩

theorem step_next (s : State) : ∃ t, step s = .next t := by
  by_cases hf : s.fault = .none
  · obtain hpc | hpc := Nat.lt_or_ge 0xFFE s.pc.toNat
    · exact ⟨_, step_of_pc_out hf hpc⟩
    · cases hd : fetchDecode s with
      | ok i => rw [step_of_decode hf hpc hd]; exact exec_next i s
      | error r => obtain ⟨w⟩ := r; exact ⟨_, step_of_reject hf hpc hd⟩
  · exact ⟨_, step_of_fault hf⟩

theorem handle_next (e : Event) (s : State) : ∃ t, handle e s = .next t := by
  cases e with
  | step => exact step_next s
  | _ => exact ⟨_, rfl⟩

/-- A run goes on from the state its first event answers. -/
theorem runEvents_cons {e : Event} (es : List Event) (h : handle e s = .next t) :
    runEvents (e :: es) s = runEvents es t := by
  rw [runEvents, h]

theorem runEvents_next (es : List Event) (s : State) : ∃ t, runEvents es s = .next t := by
  induction es generalizing s with
  | nil => exact ⟨s, rfl⟩
  | cons e es ih =>
    obtain ⟨t, ht⟩ := handle_next e s
    rw [runEvents_cons es ht]
    exact ih t

/-- Settles O10: no arm of `exec` refuses, and a run is one next state after another. -/
theorem everyRunOfEventsAnswersANextState : Obligations.EveryRunOfEventsAnswersANextState :=
  ⟨exec_next, step_next, runEvents_next⟩

/-! ### How an instruction ends -/

/-- `i` is LD_Vx_K and no key is pressed: the one case that waits (R123). -/
def Waits (i : Instr) (s : State) : Prop := (∃ x, i = .ldVxK x) ∧ ∀ j : Fin 16, s.key[j] = false

/-- How an instruction executed in `s` ends: it advances under the latch it found, it stalls because it waits, or it
raises a fault (R63, R66, R132). -/
inductive Ends (i : Instr) (s t : State) : Prop where
  | advances (hout : ∃ d, t.out = some ⟨.advanced, d⟩) (hfault : t.fault = s.fault) (hw : ¬ Waits i s)
  | stalls (ht : t = s.stall) (hw : Waits i s)
  | raises (code : FaultCode) (hcode : code ≠ .none) (ht : t = s.raise code) (hw : ¬ Waits i s)

theorem exec_ends (h : exec i s = .next t) : Ends i s t := by
  cases i with
  | ret =>
    obtain ⟨-, rfl⟩ | ⟨d, u, -, -, hu, rfl⟩ := execRet_cases h
    · exact .raises .stackUnderflow (by decide) rfl (by simp [Waits])
    · exact .advances ⟨_, rfl⟩ (by rw [hu]; rfl) (by simp [Waits])
  | call nnn =>
    obtain ⟨-, rfl⟩ | ⟨d, u, -, -, -, hu, rfl⟩ := execCall_cases h
    · exact .raises .stackOverflow (by decide) rfl (by simp [Waits])
    · exact .advances ⟨_, rfl⟩ (by rw [hu]; rfl) (by simp [Waits])
  | drw x y n | ldB x | ldMemVx x | ldVxMem x =>
    obtain ⟨-, rfl⟩ | ⟨-, rfl⟩ := next_withDataRange_cases h
    · exact .advances ⟨_, rfl⟩ rfl (by simp [Waits])
    · exact .raises .dataRange (by decide) rfl (by simp [Waits])
  | ldVxK x =>
    obtain ⟨hkeys, rfl⟩ | ⟨k, hk, -, rfl⟩ := execLdVxK_cases h
    · exact .stalls rfl ⟨⟨x, rfl⟩, hkeys⟩
    · exact .advances ⟨_, rfl⟩ rfl fun hw => by simp [hw.2 k] at hk
  | _ => cases h; exact .advances ⟨_, rfl⟩ rfl (by simp [Waits])

/-- An instruction is STALLED exactly when it waits (R66, R123). -/
theorem Ends.stalled_iff (h : Ends i s t) : (∃ d, t.out = some ⟨.stalled, d⟩) ↔ Waits i s := by
  cases h with
  | advances hout hfault hw => obtain ⟨d, hd⟩ := hout; simp [hd, hw]
  | stalls ht hw => simp [ht, hw]
  | raises code hcode ht hw => simp [ht, hw]

/-- An instruction that finds the latch clear is FAULTED exactly when it leaves the latch set (R66, R132). -/
theorem Ends.faulted_iff (h : Ends i s t) (hf : s.fault = .none) :
    (∃ d, t.out = some ⟨.faulted, d⟩) ↔ t.fault ≠ .none := by
  cases h with
  | advances hout hfault hw => obtain ⟨d, hd⟩ := hout; simp [hd, hfault, hf]
  | stalls ht hw => simp [ht, hf]
  | raises code hcode ht hw => simp [ht, hcode]

/-- Settles O57: a step that executes no instruction is never STALLED and is FAULTED with its latch set, or ADVANCED
with it clear; one that executes an instruction ends as the instruction does. -/
theorem stepResultTellsStallAndFault : Obligations.StepResultTellsStallAndFault := by
  intro s t h
  obtain ⟨hf, rfl⟩ | ⟨hf, hpc, rfl⟩ | ⟨hf, -, w, hd, rfl⟩ | ⟨hf, hpc, i, hd, hi⟩ := step_cases h
  · simp [hf]
  · simp [Nat.not_le.mpr hpc]
  · simp [hf, hd]
  · have hends := exec_ends hi
    refine ⟨hends.stalled_iff.trans ?_, hends.faulted_iff hf⟩
    simp [Waits, hf, hpc, hd]

end Sys2Proof.Machine
end

section
/-! Control transfer (spec/41_control_flow.md R70 to R79): RET and CALL on the stack, the jumps and the skips. -/

namespace Sys2Proof.Machine

variable {s t : State}

/-! ### Rules for every instruction -/

/-- Raising a fault on the state it began with is all that a trap does (R132). -/
theorem traps_of_eq_raise {o : Answer} {code : FaultCode} (h : o = .next (s.raise code)) : Traps code s o :=
  ⟨_, h, rfl, rfl, rfl, Frame.refl.raise (List.mem_singleton_self _) code⟩

/-- An instruction that ends ADVANCED took no fault, so it writes at most what the tables list (R63, R132). -/
theorem frame_of_exec_advanced {i : Instr} {d : Option Diag} (h : exec i s = .next t)
    (hout : t.out = some ⟨.advanced, d⟩) : Frame (writtenRegs i) (writtenParts i) s t := by
  obtain ⟨code, rfl⟩ | hframe := exec_raise_or_frame h
  · simp at hout
  · exact hframe

/-! ### RET and CALL -/

theorem exec_ret_underflows (hsp : s.sp.val = 0) : exec .ret s = .next (s.raise .stackUnderflow) := by
  rw [exec, execRet, s.pop_eq_none_iff.mpr hsp]

theorem exec_call_overflows (nnn : Addr12) (hsp : s.sp.val = 16) :
    exec (.call nnn) s = .next (s.raise .stackOverflow) := by
  rw [exec, execCall, (s.push_eq_none_iff _).mpr hsp]

theorem exec_ret_pops {d : Fin 16} (hsp : s.sp.val = d.val + 1) (h : exec .ret s = .next t) :
    AdvancedTo (s.stack[d] + 2#16) t ∧ t.sp.val = d.val ∧ Frame [] [.sp] s t := by
  obtain ⟨hempty, -⟩ | ⟨e, u, hs, hu, -, rfl⟩ := execRet_cases h
  · omega
  · obtain rfl : d = e := by omega
    exact ⟨⟨rfl, rfl⟩, hu, frame_of_exec_advanced h rfl⟩

theorem exec_call_pushes {nnn : Addr12} {d : Fin 16} (hsp : s.sp.val = d.val) (h : exec (.call nnn) s = .next t) :
    AdvancedTo (nnn.setWidth 16) t ∧ t.stack[d] = s.pc ∧ (∀ j : Fin 16, j ≠ d → t.stack[j] = s.stack[j]) ∧
      t.sp.val = d.val + 1 ∧ Frame [] [.stack, .sp] s t := by
  obtain ⟨hfull, -⟩ | ⟨e, u, hs, hu, hstack, -, rfl⟩ := execCall_cases h
  · omega
  · obtain rfl : d = e := by omega
    refine ⟨⟨rfl, rfl⟩, by simp [hstack], fun j hj => ?_, hu, frame_of_exec_advanced h rfl⟩
    have hne : d.val ≠ j.val := fun hdj => hj (Fin.ext hdj.symm)
    simp [hstack, Vector.getElem_set_ne, hne]

/-- Settles O11: the pop fails on an empty stack alone, else it reads the top entry. -/
theorem retPopsOrUnderflows : Obligations.RetPopsOrUnderflows := by
  refine ⟨fun s hsp => traps_of_eq_raise (exec_ret_underflows hsp), fun s d hsp => ?_⟩
  obtain ⟨t, h⟩ := exec_next .ret s
  exact ⟨t, h, exec_ret_pops hsp h⟩

/-- Settles O12: the push fails on a full stack alone, else it sets the entry at `sp`. -/
theorem callPushesOrOverflows : Obligations.CallPushesOrOverflows := by
  refine ⟨fun nnn s hsp => traps_of_eq_raise (exec_call_overflows nnn hsp), fun nnn s d hsp => ?_⟩
  obtain ⟨t, h⟩ := exec_next (.call nnn) s
  exact ⟨t, h, exec_call_pushes hsp h⟩

/-- Settles O17: CALL leaves its own address in entry `d` and `sp` at `d + 1`, and RET pops that entry. -/
theorem callThenMatchingReturnRoundTrip : Obligations.CallThenMatchingReturnRoundTrip := by
  intro nnn s t u d hs hcall husp hustack
  obtain ⟨-, hentry, -, htsp, -⟩ := exec_call_pushes hs hcall
  obtain ⟨v, hret⟩ := exec_next .ret u
  obtain ⟨⟨hpc, -⟩, hvsp, -⟩ := exec_ret_pops (husp ▸ htsp) hret
  exact ⟨v, hret, by rw [hpc, hustack, hentry], Fin.ext (hvsp.trans hs.symm)⟩

/-! ### Jumps -/

/-- Settles O13: the word is that of JP, which ends at its address. -/
theorem jumpSetsPc : Obligations.JumpSetsPc := fun nnn s =>
  ⟨decode_encode (i := .jp nnn) rfl, s.finishAt (addrWord nnn), rfl, ⟨rfl, rfl⟩, Frame.refl.finishAt _⟩

/-- The sum of an address and a byte fits in `pc`: nothing wraps (R77). -/
theorem toNat_offsetTarget (s : State) (nnn : Addr12) :
    (offsetTarget s nnn).toNat = nnn.toNat + (s.reg 0x0#4).toNat := by
  have haddr : nnn.toNat < 4096 := nnn.isLt
  have hbyte : (s.reg 0x0#4).toNat < 256 := (s.reg 0x0#4).isLt
  rw [offsetTarget, BitVec.toNat_ofNat, Nat.mod_eq_of_lt (by omega)]

/-- Settles O14: the word is that of JP_V0, which ends at the unmasked sum. -/
theorem jumpWithOffsetAddsRegisterZero : Obligations.JumpWithOffsetAddsRegisterZero := fun nnn s =>
  ⟨decode_encode (i := .jpV0 nnn) rfl, s.finishAt (offsetTarget s nnn), rfl, toNat_offsetTarget s nnn, rfl,
    Frame.refl.finishAt _⟩

/-! ### Skips -/

/-- A skip whose test `c` decides the condition `p` ends 4 or 2 further by `p` and changes nothing else (R65). -/
theorem completes_skipIf (s : State) {c : Bool} {p : Prop} [Decidable p] (h : c = true ↔ p) :
    Completes (.next (s.skipIf c)) fun t =>
      AdvancedTo (if p then s.pc + 4#16 else s.pc + 2#16) t ∧ Frame [] [] s t :=
  ⟨s.skipIf c, rfl, ⟨if_congr h rfl rfl, rfl⟩, Frame.refl.skipIf c⟩

/-- Settles O15: the words are those of the two skips, whose tests are equality with NN and its negation. -/
theorem immediateSkipsFollowTheirCondition : Obligations.ImmediateSkipsFollowTheirCondition := fun x nn s =>
  ⟨decode_encode (i := .seImm x nn) rfl, decode_encode (i := .sneImm x nn) rfl,
    completes_skipIf s beq_iff_eq, completes_skipIf s bne_iff_ne⟩

/-- Settles O16: the words are those of the two skips, whose tests are equality of the registers and its negation. -/
theorem registerSkipsFollowTheirCondition : Obligations.RegisterSkipsFollowTheirCondition := fun x y s =>
  ⟨decode_encode (i := .seReg x y) rfl, decode_encode (i := .sneReg x y) rfl,
    completes_skipIf s beq_iff_eq, completes_skipIf s bne_iff_ne⟩

end Sys2Proof.Machine
end

section
/-! Registers and ALU (spec/42_alu.md R80 to R94): the two ways a result is written, and the shifts as each other's
inverse. -/

namespace Sys2Proof.Machine

variable {s : State} {x : RegIdx}

/-! ### How a result is written -/

theorem State.reg_writeResult_same (s : State) (x : RegIdx) (v : Byte) : (s.writeResult x v).reg x = v := by
  rw [State.reg_writeResult, if_pos rfl]

/-- The flag is written last, so it stands in `V[0xF]` whatever X is (R12, D8). -/
theorem State.reg_flag_writeResultAndFlag (s : State) (x : RegIdx) (v : Byte) (c : Bool) :
    (s.writeResultAndFlag x v c).reg 0xF#4 = if c then 1#8 else 0#8 := by
  rw [State.reg_writeResultAndFlag, if_pos rfl]

theorem State.reg_writeResultAndFlag_same (s : State) (hx : x ≠ 0xF#4) (v : Byte) (c : Bool) :
    (s.writeResultAndFlag x v c).reg x = v := by
  rw [State.reg_writeResultAndFlag, if_neg hx, if_pos rfl]

/-- Writing a result ends 2 further and changes `V[X]` alone; what follows from `V[X]` being the result holds
(R80 to R85). -/
theorem completes_writeResult (s : State) {v : Byte} {q : State → Prop} (hq : ∀ t : State, t.reg x = v → q t) :
    Completes (.next (s.writeResult x v)) fun t => q t ∧ AdvancedTo (s.pc + 2#16) t ∧ Frame [x] [] s t :=
  ⟨s.writeResult x v, rfl, hq _ (s.reg_writeResult_same x v), ⟨rfl, rfl⟩,
    Frame.refl.writeResult (List.mem_singleton_self x) v⟩

/-- Writing a result and a flag that decides `p` ends 2 further and changes `V[X]` and `V[0xF]` alone; what follows from
`V[X]` being the result holds unless the flag has overwritten it (R86 to R92, R12). -/
theorem completes_writeResultAndFlag (s : State) {v : Byte} {c : Bool} {p : Prop} [Decidable p] {q : State → Prop}
    (hc : c = true ↔ p) (hq : ∀ t : State, t.reg x = v → q t) :
    Completes (.next (s.writeResultAndFlag x v c)) fun t =>
      t.reg 0xF#4 = (if p then 1#8 else 0#8) ∧ (x ≠ 0xF#4 → q t) ∧ AdvancedTo (s.pc + 2#16) t ∧
        Frame [x, 0xF#4] [] s t :=
  ⟨s.writeResultAndFlag x v c, rfl, (s.reg_flag_writeResultAndFlag x v c).trans (if_congr hc rfl rfl),
    fun hx => hq _ (s.reg_writeResultAndFlag_same hx v c), ⟨rfl, rfl⟩,
    Frame.refl.writeResultAndFlag (by simp) (by simp) v c⟩

/-! ### Shifts on bytes (R91, R92, R94) -/

theorem lowBit_eq_false_iff {a : Byte} : lowBit a = false ↔ a.toNat % 2 = 0 := by
  simp [lowBit, BitVec.getLsbD, Nat.testBit_zero]

theorem highBit_eq_false_iff {a : Byte} : highBit a = false ↔ a.toNat < 128 := by
  have hmsb : highBit a = a.msb := a.msb_eq_getLsbD_last.symm
  rw [hmsb, BitVec.msb_eq_false_iff_two_mul_lt]
  omega

theorem shiftedLeft_shiftedRight {a : Byte} (h : lowBit a = false) : shiftedLeft (shiftedRight a) = a := by
  have heven := lowBit_eq_false_iff.mp h
  apply BitVec.eq_of_toNat_eq
  rw [shiftedLeft_toNat, shiftedRight_toNat]
  omega

theorem shiftedRight_shiftedLeft {a : Byte} (h : highBit a = false) : shiftedRight (shiftedLeft a) = a := by
  have hlt := highBit_eq_false_iff.mp h
  apply BitVec.eq_of_toNat_eq
  rw [shiftedRight_toNat, shiftedLeft_toNat]
  omega

/-- A shift right brings a 0 into bit 7 (R91). -/
theorem highBit_shiftedRight (a : Byte) : highBit (shiftedRight a) = false := by
  rw [highBit_eq_false_iff, shiftedRight_toNat]
  omega

/-- A shift left brings a 0 into bit 0 (R92). -/
theorem lowBit_shiftedLeft (a : Byte) : lowBit (shiftedLeft a) = false := by
  rw [lowBit_eq_false_iff, shiftedLeft_toNat]
  omega

/-! ### Shifts there and back -/

/-- Y plays no part (R51, R91). -/
theorem exec_shr (x y : RegIdx) (s : State) : exec (.shr x y) s =
    .next (s.writeResultAndFlag x (shiftedRight (s.reg x)) (lowBit (s.reg x))) := rfl

/-- Y plays no part (R51, R92). -/
theorem exec_shl (x y : RegIdx) (s : State) : exec (.shl x y) s =
    .next (s.writeResultAndFlag x (shiftedLeft (s.reg x)) (highBit (s.reg x))) := rfl

/-- Two instructions that each replace `V[X]` by a function of it and flag a bit of it: where the second undoes the
first and both bits are 0, one after the other restores `V[X]`, each flag 0. -/
theorem completes_there_and_back {i j : Instr} {f g : Byte → Byte} {c d : Byte → Bool} (hx : x ≠ 0xF#4)
    (hi : ∀ s, exec i s = .next (s.writeResultAndFlag x (f (s.reg x)) (c (s.reg x))))
    (hj : ∀ s, exec j s = .next (s.writeResultAndFlag x (g (s.reg x)) (d (s.reg x))))
    (hc : c (s.reg x) = false) (hd : d (f (s.reg x)) = false) (hback : g (f (s.reg x)) = s.reg x) :
    Completes (exec i s) fun t =>
      t.reg 0xF#4 = 0#8 ∧ Completes (exec j t) fun u => u.reg x = s.reg x ∧ u.reg 0xF#4 = 0#8 := by
  refine ⟨_, hi s, ?_, _, hj _, ?_, ?_⟩
  · simp [State.reg_flag_writeResultAndFlag, hc]
  · simp only [State.reg_writeResultAndFlag_same _ hx, hback]
  · simp [State.reg_flag_writeResultAndFlag, State.reg_writeResultAndFlag_same _ hx, hd]

/-- Settles O23: a shift loses the bit it flags alone, and the shift back flags the 0 that the first brought in. -/
theorem shiftThereAndBackRestores : Obligations.ShiftThereAndBackRestores := fun x y z _ hx =>
  ⟨fun h => completes_there_and_back hx (exec_shr x y) (exec_shl x z) h (highBit_shiftedRight _)
      (shiftedLeft_shiftedRight h),
    fun h => completes_there_and_back hx (exec_shl x y) (exec_shr x z) h (lowBit_shiftedLeft _)
      (shiftedRight_shiftedLeft h)⟩

/-! ### Instructions without a flag -/

/-- Settles O18: the words are those of the two instructions, whose results are NN and the truncated sum. -/
theorem immediateLoadAndAddWriteOneRegister : Obligations.ImmediateLoadAndAddWriteOneRegister := fun x nn s =>
  ⟨decode_encode (i := .ldImm x nn) rfl, decode_encode (i := .addImm x nn) rfl,
    completes_writeResult s fun _ ht => ht,
    completes_writeResult s fun _ ht => by rw [ht, sumByte_toNat]⟩

/-- Settles O19: the words are those of the four instructions, whose results are stated as they are computed. -/
theorem moveAndBitwiseWriteOneRegister : Obligations.MoveAndBitwiseWriteOneRegister := fun x y s =>
  ⟨decode_encode (i := .ldReg x y) rfl, decode_encode (i := .or x y) rfl, decode_encode (i := .and x y) rfl,
    decode_encode (i := .xor x y) rfl, completes_writeResult s fun _ ht => ht, completes_writeResult s fun _ ht => ht,
    completes_writeResult s fun _ ht => ht, completes_writeResult s fun _ ht => ht⟩

/-- Settles O24: RND is one draw and one result, whose bits outside the mask are 0 whatever byte is drawn. -/
theorem randomByteStaysUnderItsMask : Obligations.RandomByteStaysUnderItsMask := by
  intro x nn s
  have hreg : (s.countDraw.writeResult x (Config.rnd s.draws &&& nn)).reg x = Config.rnd s.draws &&& nn :=
    State.reg_writeResult_same _ x _
  have hframe : Frame [x] [.draws] s s.countDraw := Frame.refl.countDraw (List.mem_singleton_self _)
  have hmask : Config.rnd s.draws &&& nn &&& ~~~nn = 0#8 := by simp [BitVec.and_assoc]
  exact ⟨_, rfl, hreg, (congrArg (· &&& ~~~nn) hreg).trans hmask, rfl, ⟨rfl, rfl⟩,
    hframe.writeResult (List.mem_singleton_self x) _⟩

/-! ### Instructions with a flag -/

/-- Settles O20: the flag decides whether the untruncated sum exceeds a byte. -/
theorem addRegistersGivesSumAndCarry : Obligations.AddRegistersGivesSumAndCarry := fun _ _ s =>
  completes_writeResultAndFlag s (carryOut_iff _ _) fun _ ht => by rw [ht, sumByte_toNat]

/-- Settles O21: SUB and SUBN are one difference with its operands in either order. -/
theorem subtractGivesDifferenceAndNoBorrow : Obligations.SubtractGivesDifferenceAndNoBorrow := fun _ _ s =>
  ⟨completes_writeResultAndFlag s (noBorrow_iff _ _) fun _ ht => by rw [ht, diffByte_toNat],
    completes_writeResultAndFlag s (noBorrow_iff _ _) fun _ ht => by rw [ht, diffByte_toNat]⟩

/-- Settles O22: the operand is `V[X]` whatever Y is, and the flag is the bit the shift loses. -/
theorem shiftsMoveOneBitIntoTheFlag : Obligations.ShiftsMoveOneBitIntoTheFlag := fun _ _ s =>
  ⟨completes_writeResultAndFlag s Iff.rfl fun _ ht => by rw [ht, shiftOperand_eq, shiftedRight_toNat],
    completes_writeResultAndFlag s Iff.rfl fun _ ht => by rw [ht, shiftOperand_eq, shiftedLeft_toNat]⟩

end Sys2Proof.Machine
end

section
/-! Index register and memory instructions (spec/43_index_memory.md R100 to R105): the addresses put in `I`, and LD_B,
register dump and register load on either side of the range check. -/

namespace Sys2Proof.Machine

variable {s t : State} {x : RegIdx}

/-! ### The index register -/

/-- Setting `I` ends 2 further and changes `I` alone; what follows from its new value holds (R100, R102). -/
theorem completes_setIndex (s : State) {a : Word} {q : Word → Prop} (hq : q a) :
    Completes (.next (s.setIndex a).advance) fun t => q t.I ∧ AdvancedTo (s.pc + 2#16) t ∧ Frame [] [.I] s t :=
  ⟨(s.setIndex a).advance, rfl, hq, ⟨rfl, rfl⟩, (Frame.refl.setIndex (List.mem_singleton_self _) a).advance⟩

/-- Settles O25: the word is that of LD_I, which sets `I` to its address field. -/
theorem setIndexLoadsTheAddress : Obligations.SetIndexLoadsTheAddress := fun nnn s =>
  ⟨decode_encode (i := .ldI nnn) rfl, completes_setIndex s (q := (· = nnn.setWidth 16)) rfl⟩

/-- Settles O27: the largest address, of V[X] = 255, fits in `I`, so nothing wraps. -/
theorem fontAddressIsBasePlusFiveTimesDigit : Obligations.FontAddressIsBasePlusFiveTimesDigit := fun x s =>
  completes_setIndex s (q := (·.toNat = 0x050 + 5 * (s.reg x).toNat)) (glyphAddress_toNat (s.reg x))

/-- Settles O26: the sum is taken before the flag is written, and the flag is written last. -/
theorem addToIndexFlagsSumsAboveMemory : Obligations.AddToIndexFlagsSumsAboveMemory := by
  intro x s
  have hflag (u : State) : (u.setFlag (indexOverflow (indexSum s x))).reg 0xF#4 =
      if s.I.toNat + (s.reg x).toNat > 0xFFF then 1#8 else 0#8 := by
    rw [State.reg_setFlag, if_pos rfl, if_congr (indexOverflow_iff _) rfl rfl, indexSum]
  exact ⟨_, rfl, BitVec.toNat_ofNat _ 16, hflag _, ⟨rfl, rfl⟩, frame_of_exec_advanced (i := .addI x) rfl rfl⟩

/-! ### The range check, for an instruction whose last address is `I + k` (R37) -/

theorem traps_withDataRange {k : Nat} (u : State) (h : s.I.toNat + k > 0xFFF) :
    Traps .dataRange s (.next (withDataRange s (k + 1) u)) :=
  traps_of_eq_raise (congrArg _ (withDataRange_trap s u (by simp only [Config.memSize]; omega)))

theorem next_withDataRange_ok {k : Nat} (u : State) (h : s.I.toNat + k ≤ 0xFFF) :
    (.next (withDataRange s (k + 1) u) : Answer) = .next u :=
  congrArg _ (withDataRange_ok s u (.inr (by simp only [Config.memSize]; omega)))

/-! ### LD_B -/

/-- Each digit is below 10 and so keeps its value as a byte (R103). -/
theorem map_toNat_bcdDigits (b : Byte) :
    (bcdDigits b).map BitVec.toNat = [b.toNat / 100, b.toNat / 10 % 10, b.toNat % 10] := by
  have hb := b.isLt
  simp only [bcdDigits, List.map_cons, List.map_nil, BitVec.toNat_ofNat, List.cons.injEq, and_true]
  omega

/-- The digit stored `k` bytes from `a` reads back as a number. -/
theorem toNat_read_bcdDigits (m : Memory) (a : Nat) (b : Byte) {k : Nat} (hk : k < 3) :
    ((writeBytes m a (bcdDigits b)).read (a + k)).toNat =
      [b.toNat / 100, b.toNat / 10 % 10, b.toNat % 10][k] := by
  rw [writeBytes_read_inside m a (bcdDigits b) k hk]
  exact (List.getElem_map BitVec.toNat).symm.trans (List.getElem_of_eq (map_toNat_bcdDigits b) hk)

/-- LD_B in range stores the digits of `V[X]` at `I` (R103). -/
theorem exec_ldB_ok (hI : s.I.toNat + 2 ≤ 0xFFF) : exec (.ldB x) s =
    .next (s.setMemory (writeBytes s.mem s.I.toNat (bcdDigits (s.reg x)))).advance :=
  next_withDataRange_ok _ hI

/-- Settles O28: the range check passes exactly when `I + 2` is in memory, and then one block of three digits is
stored. -/
theorem bcdStoresThreeDigitsOrTraps : Obligations.BcdStoresThreeDigitsOrTraps := by
  refine fun x s => ⟨fun hI => traps_withDataRange _ hI, fun hI => ⟨_, exec_ldB_ok hI, ?_⟩⟩
  have hdigit {k : Nat} (hk : k < 3) := toNat_read_bcdDigits s.mem s.I.toNat (s.reg x) hk
  exact ⟨hdigit (k := 0) (by decide), hdigit (k := 1) (by decide), hdigit (k := 2) (by decide),
    fun a => writeBytes_read_outside s.mem s.I.toNat a (bcdDigits (s.reg x)), ⟨rfl, rfl⟩,
    frame_of_exec_advanced (exec_ldB_ok hI) rfl⟩

/-! ### Register dump -/

/-- The block of a dump in range, register by register (R104). -/
theorem read_of_exec_ldMemVx_reg {r : RegIdx} (hI : s.I.toNat + x.toNat ≤ 0xFFF)
    (h : exec (.ldMemVx x) s = .next t) (hr : r.toNat ≤ x.toNat) : t.mem.read (s.I.toNat + r.toNat) = s.reg r := by
  rw [read_of_exec_ldMemVx hI h hr, BitVec.ofNat_toNat, BitVec.setWidth_eq]

/-- A dump in range leaves the bytes outside its block (R104). -/
theorem read_of_exec_ldMemVx_outside {a : Nat} (hI : s.I.toNat + x.toNat ≤ 0xFFF)
    (h : exec (.ldMemVx x) s = .next t) (ha : ∀ k ≤ x.toNat, a ≠ s.I.toNat + k) : t.mem.read a = s.mem.read a := by
  rw [exec_ldMemVx_ok hI] at h
  cases h
  refine writeBytes_read_outside s.mem s.I.toNat a (s.regsUpTo x) fun k hk => ha k ?_
  rw [State.regsUpTo_length] at hk
  omega

/-- Settles O29: the range check passes exactly when `I + X` is in memory, and then one block of registers is
stored. -/
theorem registerDumpStoresOrTraps : Obligations.RegisterDumpStoresOrTraps := by
  refine fun x s => ⟨fun hI => traps_withDataRange _ hI, fun hI => ?_⟩
  have h := exec_ldMemVx_ok hI
  exact ⟨_, h, fun _ => read_of_exec_ldMemVx_reg hI h, fun _ => read_of_exec_ldMemVx_outside hI h,
    indexPlus_toNat s _, ⟨rfl, rfl⟩, frame_of_exec_advanced h rfl⟩

/-! ### Register load -/

/-- A register load in range fills the registers 0 to X and moves `I` past the bytes read (R105). -/
theorem exec_ldVxMem_ok (hI : s.I.toNat + x.toNat ≤ 0xFFF) : exec (.ldVxMem x) s =
    .next ((s.setRegsUpTo x fun k => s.mem.read (s.I.toNat + k)).setIndex (indexPlus s (transferCount x))).advance :=
  next_withDataRange_ok _ hI

/-- The registers after a load in range (R105). -/
theorem reg_of_exec_ldVxMem (hI : s.I.toNat + x.toNat ≤ 0xFFF) (h : exec (.ldVxMem x) s = .next t) (r : RegIdx) :
    t.reg r = if r.toNat ≤ x.toNat then s.mem.read (s.I.toNat + r.toNat) else s.reg r := by
  have ht := Host.Outcome.next.inj (h.symm.trans (exec_ldVxMem_ok hI))
  rw [ht, State.reg_advance, State.reg_setIndex, State.reg_setRegsUpTo]

/-- Settles O30: the range check passes exactly when `I + X` is in memory, and then each register up to X takes its
byte. -/
theorem registerLoadReadsOrTraps : Obligations.RegisterLoadReadsOrTraps := by
  refine fun x s => ⟨fun hI => traps_withDataRange _ hI, fun hI => ?_⟩
  have h := exec_ldVxMem_ok hI
  have hreg := reg_of_exec_ldVxMem hI h
  exact ⟨_, h, fun r hr => (hreg r).trans (if_pos hr), fun r hr => (hreg r).trans (if_neg (Nat.not_le.mpr hr)),
    indexPlus_toNat s _, by simp [AdvancedTo], frame_of_exec_advanced h rfl⟩

/-- Settles O31: the load reads each register from the byte the dump stored it in, and both move `I` by X + 1. -/
theorem loadAfterDumpRestoresTheRegisters : Obligations.LoadAfterDumpRestoresTheRegisters := by
  intro x s t u hI hdump hmem hindex
  have hIu : u.I.toNat + x.toNat ≤ 0xFFF := hindex ▸ hI
  have hload := exec_ldVxMem_ok hIu
  refine ⟨_, hload, fun r hr => ?_, ?_⟩
  · rw [reg_of_exec_ldVxMem hIu hload, if_pos hr, hmem, hindex, read_of_exec_ldMemVx_reg hI hdump hr]
  · rw [exec_ldMemVx_ok hI] at hdump
    cases hdump
    simp only [State.advance_I, State.setIndex_I, indexPlus, hindex]

end Sys2Proof.Machine
end

section
/-! Display instructions (spec/44_display.md R110 to R114): CLS, and DRW on either side of the range check, once and
twice in succession. -/

namespace Sys2Proof.Machine

variable {s t : State} {x y : RegIdx} {n : Nibble} {px py k : Nat}

/-! ### Two drawings on the same cells -/

section
variable {P : Nat → Prop} {d e f : Drawing} (h1 : Inverts P d e) (h2 : Inverts P (e.1, false) f)
include h1 h2

/-- A cell inverted twice, or never, holds what it held (R114). -/
theorem Inverts.twice_restores (k : Nat) : fbCell f.1 k = fbCell d.1 k := by
  obtain ⟨hon1, hoff1, -⟩ := h1
  obtain ⟨hon2, hoff2, -⟩ := h2
  by_cases hk : P k
  · rw [hon2 k hk, hon1 k hk, Bool.not_not]
  · rw [hoff2 k hk, hoff1 k hk]

/-- The second drawing hits the cells that the first turned on (R114). -/
theorem Inverts.twice_hit_iff : f.2 = true ↔ ∃ k, P k ∧ fbCell d.1 k = false := by
  obtain ⟨hon1, -, -⟩ := h1
  obtain ⟨-, -, hhit⟩ := h2
  have hcell (k : Nat) : P k ∧ fbCell e.1 k = true ↔ P k ∧ fbCell d.1 k = false :=
    and_congr_right fun hk => by rw [hon1 k hk, Bool.not_eq_true']
  simpa [hcell] using hhit

end

/-! ### The cells under a sprite -/

/-- Cell `k` lies under a set bit of the sprite of `n` rows at (`V[x]`, `V[y]`) (R20, R111). -/
def OnSprite (s : State) (x y : RegIdx) (n : Nibble) (k : Nat) : Prop := SpriteBit s x y n (k % 64) (k / 64)

theorem onSprite_iff (hx : px < 64) : OnSprite s x y n (px + 64 * py) ↔ SpriteBit s x y n px py := by
  have hcol : (px + 64 * py) % 64 = px := by omega
  have hrow : (px + 64 * py) / 64 = py := by omega
  rw [OnSprite, hcol, hrow]

theorem SpriteBit.row_lt (h : SpriteBit s x y n px py) : py < 32 := by
  obtain ⟨row, -, col, -, -, -, rfl⟩ := h
  exact Nat.mod_lt _ (by decide)

/-- A sprite is where the registers X and Y, `I` and memory put it (R111). -/
theorem SpriteBit.congr (hx : t.reg x = s.reg x) (hy : t.reg y = s.reg y) (hI : t.I = s.I)
    (hmem : ∀ a, t.mem.read a = s.mem.read a) : SpriteBit t x y n px py ↔ SpriteBit s x y n px py := by
  simp only [SpriteBit, hx, hy, hI, hmem]

theorem exists_onSprite_iff {b : Bool} : (∃ k, OnSprite s x y n k ∧ fbCell s.fb k = b) ↔
    ∃ px < 64, ∃ py < 32, SpriteBit s x y n px py ∧ pixel s px py = b := by
  constructor
  · rintro ⟨k, hk, hb⟩
    exact ⟨k % 64, Nat.mod_lt k (by decide), k / 64, hk.row_lt, hk, by rwa [pixel, Nat.mod_add_div]⟩
  · rintro ⟨px, hx, py, -, hbit, hb⟩
    exact ⟨px + 64 * py, (onSprite_iff hx).mpr hbit, hb⟩

theorem eq_cellIndex_iff (hx : px < 64) : k = cellIndex px py ↔ k % 64 = px ∧ k / 64 = py := by
  simp only [cellIndex, Config.fbWidth]
  omega

/-- The cells that drawing the bytes at `I` inverts are those under the sprite (R111, R112). -/
theorem spriteCells_iff : SpriteCells (s.reg x).toNat (s.reg y).toNat (readBytes s.mem s.I.toNat n.toNat) k ↔
    OnSprite s x y n k := by
  have hcol (c : Nat) : c % 64 < 64 := Nat.mod_lt c (by decide)
  simp only [SpriteCells, RowCells, OnSprite, SpriteBit, readBytes_length, readBytes_getElem, exists_prop,
    eq_cellIndex_iff (hcol _)]

/-! ### What DRW draws -/

/-- The drawing that DRW makes on the screen of `s` (R111). -/
def drawn (s : State) (x y : RegIdx) (n : Nibble) : Drawing :=
  drawRows (s.reg x).toNat (s.reg y).toNat (readBytes s.mem s.I.toNat n.toNat) (s.fb, false)

/-- A sprite has at most 15 rows, so none wraps onto another. -/
theorem drawn_inverts (s : State) (x y : RegIdx) (n : Nibble) :
    Inverts (OnSprite s x y n) (s.fb, false) (drawn s x y n) := by
  have hrows : (readBytes s.mem s.I.toNat n.toNat).length ≤ 32 := by
    rw [readBytes_length]
    omega
  exact (drawRows_inverts _ _ _ _ hrows).congr fun _ => spriteCells_iff

theorem drawn_hit_iff : (drawn s x y n).2 = true ↔
    ∃ px < 64, ∃ py < 32, SpriteBit s x y n px py ∧ pixel s px py = true := by
  obtain ⟨-, -, hhit⟩ := drawn_inverts s x y n
  exact hhit.trans ((or_iff_right Bool.false_ne_true).trans exists_onSprite_iff)

theorem fbCell_drawn_of_spriteBit (hx : px < 64) (h : SpriteBit s x y n px py) :
    fbCell (drawn s x y n).1 (px + 64 * py) = !pixel s px py := by
  obtain ⟨hon, -, -⟩ := drawn_inverts s x y n
  exact hon _ ((onSprite_iff hx).mpr h)

theorem fbCell_drawn_of_not_spriteBit (hx : px < 64) (h : ¬ SpriteBit s x y n px py) :
    fbCell (drawn s x y n).1 (px + 64 * py) = pixel s px py := by
  obtain ⟨-, hoff, -⟩ := drawn_inverts s x y n
  exact hoff _ (mt (onSprite_iff hx).mp h)

/-- DRW with its sprite in range puts the drawing on the screen and its hit in the flag register (R111). -/
theorem exec_drw_ok (hI : n.toNat = 0 ∨ s.I.toNat + n.toNat - 1 ≤ 0xFFF) : exec (.drw x y n) s =
    .next ((s.setScreen (drawn s x y n).1).setFlag (drawn s x y n).2).advance :=
  congrArg _ (withDataRange_ok s _ (by simp only [Config.memSize]; omega))

theorem exec_drw_traps (hn : 0 < n.toNat) (hI : s.I.toNat + n.toNat - 1 > 0xFFF) :
    exec (.drw x y n) s = .next (s.raise .dataRange) :=
  congrArg _ (withDataRange_trap s _ (by simp only [Config.memSize]; omega))

/-- What DRW with its sprite in range leaves: the drawing, its hit in the flag register, and all else unchanged. -/
theorem exec_drw_draws (hI : n.toNat = 0 ∨ s.I.toNat + n.toNat - 1 ≤ 0xFFF) (h : exec (.drw x y n) s = .next t) :
    t.fb = (drawn s x y n).1 ∧ t.reg 0xF#4 = (if (drawn s x y n).2 then 1#8 else 0#8) ∧ t.redraw = true ∧
      AdvancedTo (s.pc + 2#16) t ∧ Frame [0xF#4] [.fb, .redraw] s t := by
  have hok := exec_drw_ok (x := x) (y := y) hI
  obtain rfl := Host.Outcome.next.inj (hok.symm.trans h)
  exact ⟨rfl, (State.reg_setFlag _ _ _).trans (if_pos rfl), rfl, ⟨rfl, rfl⟩, frame_of_exec_advanced hok rfl⟩

/-! ### The obligations -/

/-- Settles O34: the range check passes exactly when the last sprite byte is in memory, and then the cells under the
sprite are inverted, each once. -/
theorem drawInvertsThePixelsUnderTheSprite : Obligations.DrawInvertsThePixelsUnderTheSprite := by
  refine fun x y n s => ⟨fun hn hI => traps_of_eq_raise (exec_drw_traps hn hI), fun hI => ?_⟩
  obtain ⟨t, h⟩ := exec_next (.drw x y n) s
  obtain ⟨hfb, hflag, hrest⟩ := exec_drw_draws hI h
  have hpixel (px py : Nat) : pixel t px py = fbCell (drawn s x y n).1 (px + 64 * py) := by rw [pixel, hfb]
  exact ⟨t, h, fun px hx py _ => ⟨fun hbit => (hpixel px py).trans (fbCell_drawn_of_spriteBit hx hbit),
      fun hbit => (hpixel px py).trans (fbCell_drawn_of_not_spriteBit hx hbit)⟩,
    fun hhit => hflag.trans (if_pos (drawn_hit_iff.mpr hhit)),
    fun hmiss => hflag.trans (if_neg (mt drawn_hit_iff.mp hmiss)), hrest⟩

/-- Settles O35: the first drawing leaves the sprite where it was, so the second inverts the same cells. -/
theorem drawingTwiceRestoresTheScreen : Obligations.DrawingTwiceRestoresTheScreen := by
  intro x y n s t u hx hy hI h1 h2
  obtain ⟨htfb, -, -, -, hreg, htI, -, -, -, -, hmem, -⟩ := exec_drw_draws hI h1
  have htI : t.I = s.I := htI (by decide)
  obtain ⟨hufb, hflag, -⟩ := exec_drw_draws (by rwa [htI]) h2
  have hsprite (k : Nat) : OnSprite t x y n k ↔ OnSprite s x y n k :=
    SpriteBit.congr (hreg x (by simpa using hx)) (hreg y (by simpa using hy)) htI (hmem (by decide))
  have hfirst := drawn_inverts s x y n
  have hsecond := (drawn_inverts t x y n).congr hsprite
  rw [htfb] at hsecond
  refine ⟨fun j _ => by rw [hufb, hfirst.twice_restores hsecond j], ?_⟩
  calc u.reg 0xF#4 = 1#8
    _ ↔ (drawn t x y n).2 = true := by simp [hflag]
    _ ↔ ∃ k, OnSprite s x y n k ∧ fbCell s.fb k = false := hfirst.twice_hit_iff hsecond
    _ ↔ _ := exists_onSprite_iff

/-- Settles O33: the word is that of CLS, which puts the cleared framebuffer on the screen. -/
theorem clearScreenClearsEveryCell : Obligations.ClearScreenClearsEveryCell := fun _ =>
  ⟨decode_encode (i := .cls) rfl, _, rfl, fun j _ => fbCell_clear j, rfl, ⟨rfl, rfl⟩,
    frame_of_exec_advanced (i := .cls) rfl rfl⟩

end Sys2Proof.Machine
end

section
/-! Key and timer instructions (spec/45_keys_timers.md R120 to R125): the skips on a key, the wait for a key on either
side of there being one, and the moves between a register and a timer. -/

namespace Sys2Proof.Machine

variable {s : State} {x : RegIdx}

/-! ### Keys -/

/-- The key that a byte selects is that of its low four bits (R120, R121, D10). -/
theorem State.keyDown_keyIndex (s : State) {b : Byte} {k : Fin 16} (hk : k.val = b.toNat % 16) :
    s.keyDown (keyIndex b) = s.key[k] := by
  simp only [State.keyDown, keyIndex_toNat, Fin.getElem_fin, hk]

/-- Settles O36: both skips test the flag of the selected key, SKNP its negation. -/
theorem keySkipsTestTheSelectedKey : Obligations.KeySkipsTestTheSelectedKey := by
  intro x s k hk
  have hkey : s.keyDown (keyIndex (s.reg x)) = s.key[k] := s.keyDown_keyIndex hk
  exact ⟨completes_skipIf s (by rw [hkey]), completes_skipIf s (by rw [hkey, Bool.not_eq_true'])⟩

/-- LD_Vx_K with no key pressed stalls (R123). -/
theorem exec_ldVxK_stalls (hkeys : ∀ j : Fin 16, s.key[j] = false) : exec (.ldVxK x) s = .next s.stall := by
  rw [exec, execLdVxK, s.lowestKey_eq_none_iff.mpr hkeys]

/-- LD_Vx_K with a key pressed has the number of the least one as its result (R123). -/
theorem exec_ldVxK_takes {k : Fin 16} (hk : s.key[k] = true) (hleast : ∀ j : Fin 16, j < k → s.key[j] = false) :
    exec (.ldVxK x) s = .next (s.writeResult x (BitVec.ofNat 8 k.val)) := by
  rw [exec, execLdVxK, (s.lowestKey_eq_some_iff k).mpr ⟨hk, hleast⟩, State.writeResult]

/-- The number of a key keeps its value as a byte. -/
theorem toNat_ofNat_key (k : Fin 16) : (BitVec.ofNat 8 k.val).toNat = k.val := by
  rw [BitVec.toNat_ofNat, Nat.mod_eq_of_lt (by omega)]

/-- Settles O37: the word is that of LD_Vx_K, whose search for the least pressed key fails with none pressed alone. -/
theorem waitForKeyStallsOrTakesTheLeastKey : Obligations.WaitForKeyStallsOrTakesTheLeastKey := by
  refine fun x s => ⟨decode_encode (i := .ldVxK x) rfl, fun hkeys => ?_, fun k hk hleast => ?_⟩
  · exact ⟨s.stall, exec_ldVxK_stalls hkeys, rfl, rfl, Frame.refl.stall⟩
  · rw [exec_ldVxK_takes hk hleast]
    exact completes_writeResult s fun t ht => by rw [ht, toNat_ofNat_key]

/-! ### Timers -/

theorem readSoundActive_iff : readSoundActive s = true ↔ s.ST.toNat > 0 := decide_eq_true_iff

/-- Settles O38: the words are those of the three moves; the sound timer and with it the sound-active signal are read
from the value moved. -/
theorem timerInstructionsMoveOneValue : Obligations.TimerInstructionsMoveOneValue := fun x s =>
  ⟨decode_encode (i := .ldVxDt x) rfl, decode_encode (i := .ldDtVx x) rfl, decode_encode (i := .ldStVx x) rfl,
    completes_writeResult s fun _ ht => ht,
    ⟨_, rfl, rfl, ⟨rfl, rfl⟩, frame_of_exec_advanced (i := .ldDtVx x) rfl rfl⟩,
    ⟨_, rfl, rfl, readSoundActive_iff, ⟨rfl, rfl⟩, frame_of_exec_advanced (i := .ldStVx x) rfl rfl⟩⟩

end Sys2Proof.Machine
end

section
/-! Exceptions and host events (spec/60_exceptions.md R130 to R151): which fault a step raises and what it leaves
alone, which step reports a word, and what the events of the host other than STEP do. -/

namespace Sys2Proof.Machine

variable {s t : State} {i : Instr}

/-! ### Faults are precise -/

/-- An instruction that changes the latch raises a fault on the state it began with (R132). -/
theorem exec_eq_raise_of_fault_ne (h : exec i s = .next t) (hne : t.fault ≠ s.fault) : ∃ code, t = s.raise code := by
  cases exec_ends h with
  | advances _ hfault => exact absurd hfault hne
  | stalls ht => exact absurd (congrArg State.fault ht) hne
  | raises code _ ht => exact ⟨code, ht⟩

theorem step_eq_raise_of_fault_ne (h : step s = .next t) (hne : t.fault ≠ s.fault) : ∃ code, t = s.raise code := by
  obtain ⟨-, rfl⟩ | ⟨-, -, rfl⟩ | ⟨-, -, w, -, rfl⟩ | ⟨-, -, i, -, hi⟩ := step_cases h
  · exact absurd rfl hne
  · exact ⟨_, rfl⟩
  · exact absurd rfl hne
  · exact exec_eq_raise_of_fault_ne hi hne

/-- Settles O53: the latch changes in `State.raise` alone, on the state the step began with. -/
theorem faultsArePrecise : Obligations.FaultsArePrecise := by
  intro s t h hne
  obtain ⟨code, rfl⟩ := step_eq_raise_of_fault_ne h hne
  exact ⟨rfl, rfl, Frame.refl.raise (List.mem_singleton_self _) code⟩

/-! ### Causes of faults -/

/-- The code the instruction `i` raises in `s`, `none` where it takes no fault (R131). -/
def raisedCode (i : Instr) (s : State) : FaultCode :=
  match i with
  | .call _ => if s.sp.val = 16 then .stackOverflow else .none
  | .ret => if s.sp.val = 0 then .stackUnderflow else .none
  | i => if accessOk s.I (dataBytes i) then .none else .dataRange

/-- The code in the latch after an instruction that finds it clear. -/
theorem exec_fault (h : exec i s = .next t) (hf : s.fault = .none) : t.fault = raisedCode i s := by
  cases i with
  | call nnn =>
    obtain ⟨hsp, rfl⟩ | ⟨d, u, hsp, -, -, hu, rfl⟩ := execCall_cases h
    · simp [raisedCode, hsp]
    · have hne : s.sp.val ≠ 16 := by omega
      rw [hu]
      simp [raisedCode, hne, hf]
  | ret =>
    obtain ⟨hsp, rfl⟩ | ⟨d, u, hsp, -, hu, rfl⟩ := execRet_cases h
    · simp [raisedCode, hsp]
    · have hne : s.sp.val ≠ 0 := by omega
      rw [hu]
      simp [raisedCode, hne, hf]
  | drw x y n | ldB x | ldMemVx x | ldVxMem x =>
    obtain ⟨hok, rfl⟩ | ⟨hout, rfl⟩ := next_withDataRange_cases h
    · exact hf.trans (if_pos ((accessOk_iff _ _).mpr hok)).symm
    · exact (if_neg (mt (accessOk_iff _ _).mp hout)).symm
  | ldVxK x => obtain ⟨-, rfl⟩ | ⟨k, -, -, rfl⟩ := execLdVxK_cases h <;> exact hf
  | _ => cases h; exact hf

/-- The range check fails on an address above 0xFFF among those accessed (R37). -/
theorem accessOk_eq_false_iff (a : Word) (n : Nat) : accessOk a n = false ↔ ∃ k < n, a.toNat + k > 0xFFF := by
  rw [← Bool.not_eq_true, accessOk_iff]
  simp only [Config.memSize]
  constructor
  · intro hout
    exact ⟨n - 1, by omega⟩
  · rintro ⟨k, hk, hout⟩
    omega

theorem raisedCode_ne_fetchRange : raisedCode i s ≠ .fetchRange := by
  unfold raisedCode
  split <;> split <;> decide

theorem raisedCode_eq_stackOverflow_iff :
    raisedCode i s = .stackOverflow ↔ s.sp.val = 16 ∧ ∃ nnn, i = .call nnn := by
  unfold raisedCode
  split
  · simp
  · simp [ite_eq_iff]
  · next hcall _ => simpa [ite_eq_iff] using fun _ => hcall

theorem raisedCode_eq_stackUnderflow_iff : raisedCode i s = .stackUnderflow ↔ s.sp.val = 0 ∧ i = .ret := by
  unfold raisedCode
  split
  · simp [ite_eq_iff]
  · simp
  · next _ hret => simpa [ite_eq_iff] using fun _ => hret

/-- CALL and RET access no data, so their range check passes (R37). -/
theorem raisedCode_eq_dataRange_iff :
    raisedCode i s = .dataRange ↔ ∃ k < dataBytes i, s.I.toNat + k > 0xFFF := by
  unfold raisedCode
  split
  · simp [ite_eq_iff, dataBytes]
  · simp [ite_eq_iff, dataBytes]
  · simp [← accessOk_eq_false_iff]

/-- Settles O54: a step raises FETCH_RANGE before it fetches, nothing for a rejected word, and else the code of the
instruction fetched. -/
theorem faultCodesHaveTheirCauses : Obligations.FaultCodesHaveTheirCauses := by
  intro s t hf h
  obtain ⟨hne, -⟩ | ⟨-, hpc, rfl⟩ | ⟨-, hpc, w, hd, rfl⟩ | ⟨-, hpc, i, hd, hi⟩ := step_cases h
  · exact absurd hf hne
  · simp [Nat.not_le.mpr hpc, hpc]
  · simp [hf, hd, Nat.not_lt.mpr hpc]
  · rw [exec_fault hi hf, raisedCode_eq_stackOverflow_iff, raisedCode_eq_stackUnderflow_iff,
      raisedCode_eq_dataRange_iff]
    simp [hd, hpc, Nat.not_lt.mpr hpc, raisedCode_ne_fetchRange]

/-! ### Diagnostic records -/

theorem exec_out_of_ne_sys (h : exec i s = .next t) (hi : ∀ nnn, i ≠ .sys nnn) : ∃ r, t.out = some ⟨r, none⟩ := by
  cases i with
  | sys nnn => exact absurd rfl (hi nnn)
  | ret => obtain ⟨-, rfl⟩ | ⟨d, u, -, -, -, rfl⟩ := execRet_cases h <;> exact ⟨_, rfl⟩
  | call nnn => obtain ⟨-, rfl⟩ | ⟨d, u, -, -, -, -, rfl⟩ := execCall_cases h <;> exact ⟨_, rfl⟩
  | drw x y n | ldB x | ldMemVx x | ldVxMem x =>
    obtain ⟨-, rfl⟩ | ⟨-, rfl⟩ := next_withDataRange_cases h <;> exact ⟨_, rfl⟩
  | ldVxK x => obtain ⟨-, rfl⟩ | ⟨k, -, -, rfl⟩ := execLdVxK_cases h <;> exact ⟨_, rfl⟩
  | _ => cases h; exact ⟨_, rfl⟩

/-- Of the instructions SYS alone reports, its own word at `pc` (R64). -/
theorem exec_reports_iff {d : Diag} (h : exec i s = .next t) :
    (∃ r, t.out = some ⟨r, some d⟩) ↔ ∃ nnn, i = .sys nnn ∧ d = ⟨sysWord nnn, s.pc⟩ := by
  by_cases hi : ∃ nnn, i = .sys nnn
  · obtain ⟨nnn, rfl⟩ := hi
    cases h
    simp [eq_comm]
  · obtain ⟨r, hr⟩ := exec_out_of_ne_sys h (not_exists.mp hi)
    simp [hr, not_exists.mp hi]

/-- The word a fetch rejects is the word at `pc` (R34). -/
theorem word_of_fetchDecode_error {w : Word} (h : fetchDecode s = .error (.unrecognized w)) :
    w = s.mem.read s.pc.toNat ++ s.mem.read (s.pc.toNat + 1) :=
  DecodeReject.unrecognized.inj (decode_eq_error_iff.mp h).1

/-- A fetched SYS has the word at `pc` (R34, R49). -/
theorem sysWord_of_fetchDecode {nnn : Addr12} (h : fetchDecode s = .ok (.sys nnn)) :
    sysWord nnn = s.mem.read s.pc.toNat ++ s.mem.read (s.pc.toNat + 1) :=
  (decode_eq_ok_iff.mp h).2

/-- Settles O56: a rejected word and SYS report the word at `pc`, every other instruction reports nothing. -/
theorem diagnosticIsEmittedExactlyForUnrecognizedWords :
    Obligations.DiagnosticIsEmittedExactlyForUnrecognizedWords := by
  intro s t d hf hpc h
  obtain ⟨hne, -⟩ | ⟨-, hout, -⟩ | ⟨-, -, w, hd, rfl⟩ | ⟨-, -, i, hd, hi⟩ := step_cases h
  · exact absurd hf hne
  · exact absurd hout (Nat.not_lt.mpr hpc)
  · simp [hd, ← word_of_fetchDecode_error hd, eq_comm]
  · rw [exec_reports_iff hi]
    constructor
    · rintro ⟨nnn, rfl, rfl⟩
      exact ⟨by rw [sysWord_of_fetchDecode hd], .inr ⟨nnn, hd⟩⟩
    · rintro ⟨rfl, ⟨w, hw⟩ | ⟨nnn, hsys⟩⟩
      · simp [hd] at hw
      · obtain rfl : i = .sys nnn := Except.ok.inj (hd.symm.trans hsys)
        exact ⟨nnn, rfl, by rw [sysWord_of_fetchDecode hd]⟩

/-! ### TICK -/

theorem countDown_of_zero {b : Byte} (h : b.toNat = 0) : countDown b = 0#8 :=
  BitVec.eq_of_toNat_eq (by rw [countDown_toNat, h]; rfl)

/-- Settles O39: both timers count down, whatever the latch holds. -/
theorem tickCountsBothTimersDown : Obligations.TickCountsBothTimersDown := fun s =>
  ⟨tick s, rfl, fun _ => countDown_toNat s.DT, countDown_of_zero, fun _ => countDown_toNat s.ST, countDown_of_zero,
    rfl, rfl, by simp [Frame]⟩

/-- Settles O40, by induction on the number of ticks: the first of them takes 1 off each timer. -/
theorem ticksReachZeroAndStay : Obligations.TicksReachZeroAndStay := by
  intro n
  induction n with
  | zero => exact fun s => ⟨s, rfl, rfl, rfl⟩
  | succ n ih =>
    intro s
    obtain ⟨t, ht, hDT, hST⟩ := ih (tick s)
    rw [tick_DT, countDown_toNat] at hDT
    rw [tick_ST, countDown_toNat] at hST
    exact ⟨t, (runEvents_cons _ rfl).trans ht, by omega, by omega⟩

/-! ### KEY_WRITE and REDRAW_ACK -/

/-- Settles O41: the key state is set at `k` alone. -/
theorem keyWriteSetsOneKey : Obligations.KeyWriteSetsOneKey := fun k b s =>
  ⟨keyWrite k b s, rfl, (keyWrite_keyDown s k k b).trans (if_pos rfl),
    fun j hj => (keyWrite_keyDown s k j b).trans (if_neg hj), rfl, rfl, by simp [Frame]⟩

/-- Settles O42: the flag is the one field the event writes. -/
theorem redrawAckClearsTheFlag : Obligations.RedrawAckClearsTheFlag := fun s =>
  ⟨redrawAck s, rfl, rfl, rfl, rfl, by simp [Frame]⟩

/-! ### LOAD -/

/-- Settles O43: the length decides between a load error and one block of bytes stored at 0x200. -/
theorem loadWritesTheProgramOrReportsAnError : Obligations.LoadWritesTheProgramOrReportsAnError := by
  intro bytes s
  constructor <;> intro hlen
  · simp [handle, loadProgram_error s hlen]
  · rw [handle, loadProgram_ok s hlen]
    refine ⟨rfl, _, rfl, fun k hk => ?_, fun a => writeBytes_read_outside s.mem _ a bytes, rfl, rfl,
      Frame.refl.setMemory (List.mem_singleton_self _) _⟩
    rw [List.getD_eq_getElem _ _ hk]
    exact writeBytes_read_inside s.mem _ bytes k hk

theorem loadProgram_fault (bytes : List Byte) (s : State) : (loadProgram bytes s).1.fault = s.fault := by
  obtain hlen | hlen := Nat.lt_or_ge Config.progMax bytes.length
  · rw [loadProgram_error s hlen]
  · rw [loadProgram_ok s hlen, State.setMemory_fault]

/-! ### The latch -/

/-- Settles O55: a step stands still under the latch, and of the host's events RESET alone writes it. -/
theorem latchIsClearedByResetAlone : Obligations.LatchIsClearedByResetAlone := by
  intro e s t hf he h
  cases e with
  | reset => exact absurd rfl he
  | load bytes => cases h; exact loadProgram_fault bytes s
  | step =>
    obtain rfl := Host.Outcome.next.inj ((step_of_fault hf).symm.trans h)
    rfl
  | tick | keyWrite k b | redrawAck => cases h; rfl

end Sys2Proof.Machine
end

section
/-! The machine as RESET and LOAD leave it (spec/70_reset_and_hazards.md R162): a load stores at 0x200 upward, so it
moves neither `pc` nor the font table below it. -/

namespace Sys2Proof.Machine

theorem loadProgram_pc (bytes : List Byte) (s : State) : (loadProgram bytes s).1.pc = s.pc := by
  obtain hlen | hlen := Nat.lt_or_ge Config.progMax bytes.length
  · rw [loadProgram_error s hlen]
  · rw [loadProgram_ok s hlen, State.setMemory_pc]

/-- A load leaves every byte below 0x200 (R150, R151). -/
theorem loadProgram_read_below (bytes : List Byte) (s : State) {a : Nat} (ha : a < Config.progBase) :
    (loadProgram bytes s).1.mem.read a = s.mem.read a := by
  obtain hlen | hlen := Nat.lt_or_ge Config.progMax bytes.length
  · rw [loadProgram_error s hlen]
  · rw [loadProgram_ok s hlen, State.setMemory_mem]
    exact writeBytes_read_outside s.mem _ a bytes fun k _ => by omega

/-- A fetch at 0x200 decodes the bytes at 0x200 and 0x201 (R34, R162). -/
theorem fetchDecode_of_pc_entry {t : State} (hpc : t.pc = Config.pcReset) :
    fetchDecode t = decodeBytes (t.mem.read 0x200) (t.mem.read 0x201) := by
  rw [fetchDecode, hpc]
  rfl

/-- Settles O44: RESET gives `pc` and the font table their values, and LOAD keeps both. -/
theorem loadedMachineStartsAtTheEntryPoint : Obligations.LoadedMachineStartsAtTheEntryPoint := by
  intro bytes s
  have hpc : (loadProgram bytes (resetEvent s)).1.pc = Config.pcReset := loadProgram_pc bytes _
  refine ⟨_, rfl, hpc, fun k hk => ?_, fetchDecode_of_pc_entry hpc⟩
  have hbelow : 0x050 + k < Config.progBase := by simp only [Config.progBase]; omega
  exact (loadProgram_read_below bytes _ hbelow).trans (read_reset_font k hk)

end Sys2Proof.Machine
end
